-- ==== Sys2Proof/Word.lean ====
section
/-! DEFINITION. The word and the line of the tool region (spec 00_scope, R165). -/

namespace Sys2Proof

/-- A word is 64 bits (00_scope, Words and bytes). -/
abbrev Word := BitVec 64

/-- A byte of a word; byte j holds bits 8j+7..8j (R165). -/
abbrev Byte := BitVec 8

/-- The eight words of a slot, word 0 at the slot's lowest address (R3). -/
abbrev Line := Vector Word 8

end Sys2Proof
end

