-- ==== Sys2Proof/Syntax.lean ====
section
/-! DEFINITION. The commands the 2140 takes: one constructor of `Instr` per row of spec/opcode_table.json,
and the AXI4 bursts they carry (R2, R3). -/

namespace Sys2Proof

/-- The six roles (R5). -/
inductive Role where
  | other | supervisor | handler | stage | column | imager
  deriving DecidableEq, Repr

/-- The AXI4 burst types (R3). -/
inductive BurstType where
  | fixed | incr | wrap
  deriving DecidableEq, Repr

/-- The address phase of a burst (R2, R5). `agent` is the four most significant bits of the transaction ID and `idLow` the
rest of it, whose width the spec does not give (log 17). `heldRole` is the role the part gave the transaction when it accepted
its address, for a burst whose address is accepted while its command still waits; `none` for an address accepted as the command
begins (log 6). `size` is the base-2 logarithm of the bytes of a beat. -/
structure BurstHeader where
  agent : BitVec 4
  idLow : Nat
  heldRole : Option Role
  addr : BitVec 40
  size : Fin 4
  kind : BurstType
  deriving DecidableEq, Repr

/-- One write data beat: the 64-bit data lanes and their strobes. -/
structure WriteData where
  data : Word
  strobes : BitVec 8
  deriving DecidableEq, Repr

/-- The AXI4 responses. The part itself gives OKAY and SLVERR (R13, R15); memory gives any (R17; EXOKAY is AXI4's, log 7). -/
inductive Response where
  | okay | exokay | slverr | decerr
  deriving DecidableEq, Repr

/-- One read data beat. Of a beat the part answers itself only the byte lanes in `lanes` carry data; the others are shown as
zero (log 9). -/
structure ReadBeat where
  data : Word
  lanes : BitVec 8
  response : Response
  deriving DecidableEq, Repr

/-- A write burst, with the response memory gives it (log 7). -/
structure WriteBurst where
  header : BurstHeader
  beats : List WriteData
  answer : Response
  deriving DecidableEq, Repr

/-- A read burst of `length` beats, with the beats memory answers it with if it goes to memory (log 7). -/
structure ReadBurst where
  header : BurstHeader
  length : Nat
  answer : List ReadBeat
  deriving DecidableEq, Repr

/-- A write beat at the address the burst places it at (R3). -/
structure PlacedBeat where
  addr : Nat
  data : Word
  strobes : BitVec 8
  deriving DecidableEq, Repr

/-- One of the 25 carrier slots: carrier slot number s is index s − 1. -/
abbrev CarrierSlot := Fin 25

/-- The staged slots of the map of R3. -/
inductive StagedSlot where
  | setup | control | lotHeader
  | waferEntry (n : CarrierSlot)
  | focusRecipe | samplingRecipe | geometryRecipe
  | mailbox | completion | slotMap | idRead
  | arrival | sweep | capability | result
  deriving DecidableEq, Repr

/-- The bulk slots (R12): the table stream, and the 4096 defect list slots. -/
inductive BulkSlot where
  | tableStream
  | defect (i : Fin 4096)
  deriving DecidableEq, Repr

/-- The commands, one per row of spec/opcode_table.json. A write or read command is one whole burst: what it does follows from
the addresses and bytes of the burst, slot by slot (log 4). Where a row is one for many slots, the command also names the slot it
stands for, which the burst alone decides (log 5). -/
inductive Instr where
  /-- PIN_RESET (R21): RESET_N is released with these straps. -/
  | pinReset (wb : BitVec 3) (bypass : Bool)
  /-- STAGED_WRITE (R7): a burst that posts no slot, with a staged slot it touches; with none, a burst that lies in no staged slot,
  and only passes (log 15). -/
  | stagedWrite (slot : Option StagedSlot) (b : WriteBurst)
  /-- SETUP (R19). -/
  | setup (b : WriteBurst)
  /-- CLEAR (R22). -/
  | clear (b : WriteBurst)
  /-- LOT_CLOSE (R34). -/
  | lotClose (b : WriteBurst)
  /-- ID_OVERRIDE (R33). -/
  | idOverride (b : WriteBurst)
  /-- RELOCATE (R51). -/
  | relocate (b : WriteBurst)
  /-- ALIGNMENT (R64). -/
  | alignment (b : WriteBurst)
  /-- END_WAFER (R65). -/
  | endWafer (b : WriteBurst)
  /-- URGENT (R82). -/
  | urgent (b : WriteBurst)
  /-- TABLE_LOAD (R89). -/
  | tableLoad (b : WriteBurst)
  /-- ACK_FLAGS (R163). -/
  | ackFlags (b : WriteBurst)
  /-- LOT_HEADER (R26). -/
  | lotHeader (b : WriteBurst)
  /-- WAFER_ENTRY (R28), posted to the staged slot of a carrier slot. -/
  | waferEntry (n : CarrierSlot) (b : WriteBurst)
  /-- FOCUS_RECIPE (R57). -/
  | focusRecipe (b : WriteBurst)
  /-- SAMPLING_RECIPE (R59). -/
  | samplingRecipe (b : WriteBurst)
  /-- GEOMETRY_RECIPE (R60). -/
  | geometryRecipe (b : WriteBurst)
  /-- PICK_CARRIER (R41). -/
  | pickCarrier (b : WriteBurst)
  /-- PICK_ALIGNER (R41). -/
  | pickAligner (b : WriteBurst)
  /-- PICK_STAGE (R46). -/
  | pickStage (b : WriteBurst)
  /-- PLACE_ALIGNER (R41). -/
  | placeAligner (b : WriteBurst)
  /-- PLACE_STAGE (R44). -/
  | placeStage (b : WriteBurst)
  /-- PLACE_CARRIER (R43). -/
  | placeCarrier (b : WriteBurst)
  /-- COMPLETION (R48). -/
  | completion (b : WriteBurst)
  /-- SLOT_MAP (R29). -/
  | slotMap (b : WriteBurst)
  /-- ID_READ (R31). -/
  | idRead (b : WriteBurst)
  /-- DEFECT_ENTRY (R72), a full line of a defect list slot. -/
  | defectEntry (i : Fin 4096) (b : WriteBurst)
  /-- BULK_PARTIAL (R12). -/
  | bulkPartial (slot : BulkSlot) (b : WriteBurst)
  /-- TABLE_STREAM_LINE (R90). -/
  | tableStreamLine (b : WriteBurst)
  /-- TARGET_READ (R98). -/
  | targetRead (r : ReadBurst)
  /-- ARRIVAL (R103). -/
  | arrival (b : WriteBurst)
  /-- ARRIVAL_STEP_EXPIRY (R109). -/
  | arrivalStepExpiry
  /-- RECALL_EXPIRY (R110). -/
  | recallExpiry
  /-- FOCUS_STEP_EXPIRY (R111). -/
  | focusStepExpiry
  /-- IMAGE_STEP_EXPIRY (R111). -/
  | imageStepExpiry
  /-- PLAN_READ (R120). -/
  | planRead (r : ReadBurst)
  /-- SWEEP (R126). -/
  | sweep (b : WriteBurst)
  /-- COLUMN_CAPABILITY (R131). -/
  | columnCapability (b : WriteBurst)
  /-- RESULT (R112). -/
  | result (b : WriteBurst)
  /-- EVENT_READ (R161). -/
  | eventRead (r : ReadBurst)
  /-- REPORT_WINDOW_READ (R153): beats `first` to `first + count − 1` of the burst are formed now (log 14). -/
  | reportWindowRead (r : ReadBurst) (first count : Nat)
  /-- STRADDLING_READ (R15). -/
  | straddlingRead (r : ReadBurst)
  /-- UNKNOWN_KIND_POST (R9): a post to a staged slot whose kind the slot does not accept. -/
  | unknownKindPost (slot : StagedSlot) (b : WriteBurst)
  deriving DecidableEq, Repr

end Sys2Proof
end

