-- ==== Sys2Proof/Decode.lean ====
section
/-! DEFINITION. The command a table word spells. No row of spec/opcode_table.json gives bits (its rows hold no "fixed" and
no field), so no word spells a command. -/

namespace Sys2Proof

/-- The command that a word of `nbits` bits spells by the table: none, since no row of the table has an encoding (log 21). -/
def decodeTableWord (_nbits _w : Nat) : Option Instr := none

end Sys2Proof
end

