-- ==== Sys2Proof/Config.lean ====
section
/-! DEFINITION. The constants of the part. The spec leaves no result of a step open, so there is no free value here. -/

namespace Sys2Proof.Config

/-- The tool region is 1 MiB long (R1). -/
def regionBytes : Nat := 2 ^ 20

/-- The window base step, 256 MiB (R1). -/
def windowStep : Nat := 2 ^ 28

/-- Capacity of the report FIFO in words (R150). -/
def fifoWords : Nat := 512

/-- The tag of the calibration revisit (R78). -/
def calibrationTag : Nat := 511

/-- Places of the priority lane (R81). -/
def lanePlaces : Nat := 4

/-- Number of defect list indices (R71). -/
def defectIndices : Nat := 4096

/-- Number of entries of the field correction table (R88). -/
def correctionEntries : Nat := 1024

/-- Zones along each axis of the zone grid (R136). -/
def zonesPerAxis : Nat := 12

/-- Zone cell width in µm (R97). -/
def zoneWidth : Int := 25000

/-- The largest radius limit a geometry recipe may hold, in µm (R58, R60). -/
def largestRadius : Int := 150000

/-- Start of the minimum focus, +32767 × 16 ffu (R138). -/
def minFocusStart : Int := 524272

/-- Start of the maximum focus, −32768 × 16 ffu (R138). -/
def maxFocusStart : Int := -524288

/-- Limit of the 16-bit counts that hold (R11, R37, R69, R151). -/
def hold16 : Nat := 65535

/-- Limit of the 12-bit focus counts that hold (R138). -/
def hold12 : Nat := 4095

/-- Limit of the 8-bit counts that hold (R37, R130, R138, R157). -/
def hold8 : Nat := 255

end Sys2Proof.Config
end

