-- ==== Sys2Proof/Machine/State.lean ====
section
/-! DEFINITION. Everything the spec gives the 2140 to hold, as plain data, block by block, and its values after pin reset. -/

namespace Sys2Proof.Machine

/-- A store kept as (index, entry) pairs, indices strictly rising; an index that is not listed has its mark clear (log 18). -/
abbrev Sparse (α : Type) := List (Nat × α)

/-! ## Path Interface -/

/-- Part states (R4). -/
inductive PartState where
  | unconfigured | ready
  deriving DecidableEq, Repr

/-- The record kinds a slot accepts (R166); NULL is accepted by none. -/
inductive RecordKind where
  | setup | clear | lotClose | idOverride | relocate | alignment | endWafer | urgent | tableLoad | ackFlags
  | lotHeader | waferEntry | focusRecipe | samplingRecipe | geometryRecipe
  | handlerCommand | completion | slotMap | idRead | arrival | sweep | capability | result
  deriving DecidableEq, Repr

/-- The outcomes of a post (R11); NONE, which no post produces, is the absence of an outcome. -/
inductive PostOutcome where
  | taken | incomplete | partialLine | notPermitted | wrongState | outOfRange | unknownKind | stale
  | listLocked | tableBusy | laneFull | tableFull | already | alreadyDone | notInWafer
  deriving DecidableEq, Repr

/-- A post as the last-post field and the last refusal keep it: slot number, tag, outcome (R11). -/
structure PostRecord where
  slot : Nat
  tag : BitVec 8
  outcome : Option PostOutcome
  deriving DecidableEq, Repr

/-- Slot 0, tag 0, NONE (R11). -/
def PostRecord.none : PostRecord := { slot := 0, tag := 0, outcome := Option.none }

/-- A set of the twelve event kinds, one bit per kind (R159, R167). -/
abbrev EventSet := BitVec 12

/-- The setup in force (R19). -/
structure Setup where
  roleMap : Vector Role 16
  arrivalLimit : Nat
  focusLimit : Nat
  imageLimit : Nat
  maxAttempts : Nat
  threshold : Nat
  enable : EventSet
  deriving DecidableEq, Repr

/-- A staging buffer: eight words and one written mark per word (R7). -/
structure StagingBuffer where
  words : Line
  marks : Vector Bool 8
  deriving DecidableEq, Repr

/-- The six imaging modes, in the priority order of R132. -/
inductive Mode where
  | seHigh | bseHigh | tilt | seLow | bseLow | overview
  deriving DecidableEq, Repr

/-- A set of modes; mode code c is bit c − 1 (R167). -/
abbrev ModeSet := BitVec 6

/-- The focus recipe (R57); foci in fu, residual limits in ffu, the site in µm. -/
structure FocusRecipe where
  nominal : Int
  floor : Int
  ceiling : Int
  contrastFloor : Nat
  wideN : Nat
  wideDz : Nat
  narrowN : Nat
  narrowDz : Nat
  weightShift : Nat
  driftLimit : Nat
  carry : Bool
  maxSweeps : Nat
  residualHigh : Int
  residualLow : Int
  calX : Int
  calY : Int
  deriving DecidableEq, Repr

/-- Four attribute nibbles: inspection class, size bin, region, inspection pass (R71, R74). -/
structure Nibbles where
  cls : BitVec 4
  size : BitVec 4
  region : BitVec 4
  pass : BitVec 4
  deriving DecidableEq, Repr

/-- A sampling filter (R74). -/
structure SamplingFilter where
  enable : Bool
  pattern : Nibbles
  mask : Nibbles
  deriving DecidableEq, Repr

/-- The filter logic (R75). -/
inductive FilterLogic where
  | or | and | nor | nand
  deriving DecidableEq, Repr

/-- The focus steps (R59, R122). -/
inductive FocusStep where
  | narrow | predict | wide
  deriving DecidableEq, Repr

/-- The sampling recipe (R59). Cadence entries are kept as the nibbles written, since entries L..15 are latched unchecked. -/
structure SamplingRecipe where
  filter1 : SamplingFilter
  filter2 : SamplingFilter
  logic : FilterLogic
  cap : Nat
  cadenceLength : Nat
  cadence : Vector (BitVec 4) 16
  deriving DecidableEq, Repr

/-- The geometry recipe (R60); lengths in µm, offsets in fu, one offset per mode. -/
structure GeometryRecipe where
  pitchX : Nat
  pitchY : Nat
  originX : Int
  originY : Int
  radius : Nat
  tolerance : Nat
  modes : ModeSet
  offsets : Vector Int 6
  deriving DecidableEq, Repr

/-- The Path Interface's state. A recipe is present exactly when it is `some` (R56). -/
structure PathInterface where
  window : BitVec 3
  bypass : Bool
  part : PartState
  setup : Setup
  staging : Vector StagingBuffer 39
  focusRecipe : Option FocusRecipe
  samplingRecipe : Option SamplingRecipe
  geometryRecipe : Option GeometryRecipe
  lastPost : PostRecord
  refusals : Nat
  deriving DecidableEq, Repr

/-! ## Wafer Tracker -/

/-- Lot states (R23). -/
inductive LotState where
  | noLot | loading | opened | closing
  deriving DecidableEq, Repr

/-- Slot conditions (R24). -/
inductive Condition where
  | unmapped | empty | present | double | crossed
  deriving DecidableEq, Repr

/-- Wafer locations (R24, R39). -/
inductive Location where
  | absent | inCarrier | onRobot | onAligner | inChamber | returned | unknown
  deriving DecidableEq, Repr

/-- Identity states (R24). -/
inductive IdState where
  | unchecked | idUnread | idNoReference | idOk | idMismatch | idOverridden
  deriving DecidableEq, Repr

/-- Twelve identity characters, character 0 first (R24, R31). -/
abbrev WaferId := Vector Byte 12

/-- A slot record (R24). -/
structure SlotRecord where
  condition : Condition
  location : Location
  idState : IdState
  expectedId : Option WaferId
  readId : Option WaferId
  aligned : Bool
  visited : Bool
  rangeFault : Bool
  deriving DecidableEq, Repr

/-- The five lot tallies (R37). -/
structure LotTallies where
  present : Nat
  reviewed : Nat
  notVisited : Nat
  faults : Nat
  mismatches : Nat
  deriving DecidableEq, Repr

/-- Handler verbs (R40). -/
inductive Verb where
  | pick | place
  deriving DecidableEq, Repr

/-- Handler places (R40). -/
inductive Place where
  | carrier | aligner | stage
  deriving DecidableEq, Repr

/-- The command an OUTSTANDING channel holds (R46, R47); `carrier` is the command's carrier slot field as written. -/
structure HeldCommand where
  tag : BitVec 8
  verb : Verb
  place : Place
  carrier : BitVec 8
  wafer : CarrierSlot
  deriving DecidableEq, Repr

/-- The handler channel (R47). -/
inductive Channel where
  | idle
  | outstanding (c : HeldCommand)
  | halted (slot : CarrierSlot) (verb : Verb) (place : Place)
  deriving DecidableEq, Repr

/-- The Wafer Tracker's state (R23, R39, R47). -/
structure WaferTracker where
  lot : LotState
  lotNumber : BitVec 32
  idCheck : Bool
  idMask : BitVec 12
  ends : Vector Nat 25
  slots : Vector SlotRecord 25
  tallies : LotTallies
  robot : Option CarrierSlot
  aligner : Option CarrierSlot
  chamber : Option CarrierSlot
  channel : Channel
  deriving DecidableEq, Repr

/-! ## Revisit Scheduler -/

/-- A defect entry (R71). -/
structure DefectEntry where
  column : Int
  row : Int
  inX : Nat
  inY : Nat
  attributes : Nibbles
  source : BitVec 32
  deriving DecidableEq, Repr

/-- Session states (R62). -/
inductive SessionState where
  | none | aligning | active | ending | exiting
  deriving DecidableEq, Repr

/-- The wafer recipe: the three recipes latched together (R61). -/
structure WaferRecipe where
  focus : FocusRecipe
  sampling : SamplingRecipe
  geometry : GeometryRecipe
  deriving DecidableEq, Repr

/-- Failure reasons (R69, R114). -/
inductive FailReason where
  | arrivalTimeout | focusTimeout | imageTimeout | offWafer | noMode | imageFault
  deriving DecidableEq, Repr

/-- The failed-by-reason tallies (R69). -/
structure FailTallies where
  arrivalTimeout : Nat
  focusTimeout : Nat
  imageTimeout : Nat
  offWafer : Nat
  noMode : Nat
  imageFault : Nat
  deriving DecidableEq, Repr

/-- The wafer tallies (R69). -/
structure WaferTallies where
  selected : Nat
  skipped : Nat
  overCap : Nat
  absent : Nat
  urgentAdded : Nat
  classified : Nat
  notFound : Nat
  failed : Nat
  failedBy : FailTallies
  notReviewed : Nat
  restarts : Nat
  deriving DecidableEq, Repr

/-- The session record (R62). `remembered` is the state exit started left. -/
structure Session where
  state : SessionState
  chamberSlot : Option CarrierSlot
  recipe : Option WaferRecipe
  offsetX : Int
  offsetY : Int
  aligned : Bool
  remembered : Option SessionState
  cadenceIndex : Nat
  tallies : WaferTallies
  histogram : Vector Nat 64
  sequence : BitVec 16
  deriving DecidableEq, Repr

/-- Revisit kinds (R77). -/
inductive RevisitKind where
  | regular | urgent | calibration
  deriving DecidableEq, Repr

/-- Revisit states (R77). -/
inductive RevisitState where
  | queued | dispatched | recalling | arrived | focusing | focused | retired | failed | notReviewed
  deriving DecidableEq, Repr

/-- The flags of a revisit (R77). -/
structure EntryFlags where
  restarted : Bool
  uncorrected : Bool
  positionOff : Bool
  focusFallback : Bool
  focusAtLimit : Bool
  clamped : Bool
  deriving DecidableEq, Repr

/-- All flags clear. -/
def EntryFlags.clear : EntryFlags :=
  { restarted := false, uncorrected := false, positionOff := false, focusFallback := false, focusAtLimit := false,
    clamped := false }

/-- A revisit table entry (R77); its tag is its index in the table. -/
structure RevisitEntry where
  kind : RevisitKind
  defect : Option Nat
  state : RevisitState
  attempts : Nat
  sweeps : Nat
  flags : EntryFlags
  sequence : Option (BitVec 16)
  target : Option (Int × Int)
  deriving DecidableEq, Repr

/-- The step timer (R108). `fresh` while the first tick after the start, which is not counted, is still to come. -/
inductive StepTimer where
  | stopped
  | running (limit elapsed : Nat) (fresh : Bool)
  deriving DecidableEq, Repr

/-- The Revisit Scheduler's state. `corrections` lists the valid entries (dx, dy) of the field correction table (R88). -/
structure RevisitScheduler where
  defects : Sparse DefectEntry
  session : Session
  table : Sparse RevisitEntry
  queue : List Nat
  lane : List Nat
  timer : StepTimer
  corrections : Sparse (Int × Int)
  cursor : Nat
  remaining : Nat
  deriving DecidableEq, Repr

/-! ## Focus Engine -/

/-- Sources of a prediction (R139). -/
inductive FocusSource where
  | zone | neighbours | seed | wafer | nominal
  deriving DecidableEq, Repr

/-- A sweep plan: first sample, step and number of samples, and the centre it was made from, in fu (R119, R125). -/
structure SweepPlan where
  z0 : Int
  dz : Nat
  n : Nat
  centre : Int
  deriving DecidableEq, Repr

/-- The focus context (R119); the zone is (column, row). -/
structure FocusContext where
  tag : Nat
  kind : RevisitKind
  zone : Nat × Nat
  sequence : Option (BitVec 16)
  step : Option FocusStep
  prediction : Option (Int × FocusSource)
  plan : Option SweepPlan
  sweepNumber : Option Nat
  image : Option (Mode × Int)
  deriving DecidableEq, Repr

/-- How far the value of a zone that is not EMPTY is trusted (R136). -/
inductive ZoneTrust where
  | seeded | tracking | suspect
  deriving DecidableEq, Repr

/-- A zone that is not EMPTY (R136); F is in ffu. -/
structure Zone where
  trust : ZoneTrust
  value : Int
  count : Nat
  measured : Bool
  deriving DecidableEq, Repr

/-- The sign of the drift run (R145). -/
inductive RunSign where
  | positive | negative
  deriving DecidableEq, Repr

/-- The per-wafer focus statistics (R138). -/
structure FocusStats where
  accepted : Nat
  residualHigh : Nat
  residualLow : Nat
  runCount : Nat
  runSign : Option RunSign
  driftEvents : Nat
  calRun : Nat
  calSuppressed : Nat
  calUnmeasured : Nat
  minFocus : Int
  maxFocus : Int
  deriving DecidableEq, Repr

/-- The Focus Engine's state. `zones` lists the zones that are not EMPTY, zone (column, row) at 12 × column + row. -/
structure FocusEngine where
  context : Option FocusContext
  zones : Sparse Zone
  stats : FocusStats
  capability : ModeSet
  deriving DecidableEq, Repr

/-! ## Report Unit -/

/-- Rewrite reasons (R41, R167); NONE is the absence of a reason. -/
inductive RewriteReason where
  | notPermitted | malformed | noLot | halted | busy | lotClosing | robotFull | robotEmpty | slotUnusable | notHere
  | reviewedAlready | occupied | wrongSlot | notAligned | idCheck | noRecipe | siteBusy
  deriving DecidableEq, Repr

/-- The Report Unit's state. The HALTED sticky flag is read from the channel (R163). -/
structure ReportUnit where
  fifo : List Word
  pendingEvents : EventSet
  attn : Bool
  lastRefusal : PostRecord
  lastRewrite : Option RewriteReason
  lost : Nat
  waferReportsLost : Nat
  reportLost : Bool
  deriving DecidableEq, Repr

/-! ## The ports, as the latest command used them (log 7) -/

/-- A write burst passed downstream: its address phase and every beat's data and strobes (R2). -/
structure DownWrite where
  header : BurstHeader
  beats : List WriteData
  deriving DecidableEq, Repr

/-- A read burst passed downstream: its address phase and length (R2). -/
structure DownRead where
  header : BurstHeader
  length : Nat
  deriving DecidableEq, Repr

/-- The beats of a read burst returned upstream, memory's or the part's own (R2, R13). -/
structure UpRead where
  header : BurstHeader
  beats : List ReadBeat
  deriving DecidableEq, Repr

/-- A write response returned upstream with the burst's ID (R2, R17). -/
structure UpWrite where
  header : BurstHeader
  response : Response
  deriving DecidableEq, Repr

/-- What the latest command made the two AXI ports do. -/
structure Traffic where
  downWrite : Option DownWrite
  upWrite : Option UpWrite
  downRead : Option DownRead
  upRead : Option UpRead
  deriving DecidableEq, Repr

/-- No traffic. -/
def Traffic.none : Traffic :=
  { downWrite := Option.none, upWrite := Option.none, downRead := Option.none, upRead := Option.none }

/-! ## The whole machine -/

/-- The state of the 2140: the commands waiting, the ports' latest traffic, and the five blocks. -/
structure State where
  pending : List Instr
  traffic : Traffic
  pi : PathInterface
  wt : WaferTracker
  rs : RevisitScheduler
  fe : FocusEngine
  ru : ReportUnit
  deriving DecidableEq, Repr

/-- Faults: none. The spec stops the machine nowhere, so no step raises one (safe: nothing is cut short; log 28). -/
inductive Fault where
  deriving DecidableEq, Repr

/-- Refusals of a step. -/
inductive Refusal where
  /-- Raised by `exec` for a row of the opcode table that has no meaning yet; safe, since the run stops there. No row raises
  it now. -/
  | notModelled (mnemonic : String)
  deriving DecidableEq, Repr

/-! ## Values after pin reset -/

/-- The setup after pin reset (R19). -/
def Setup.reset : Setup :=
  { roleMap := Vector.replicate 16 Role.other, arrivalLimit := 0, focusLimit := 0, imageLimit := 0, maxAttempts := 2,
    threshold := 256, enable := 0 }

/-- An empty staging buffer: words zero, marks clear (R4, R21). -/
def StagingBuffer.empty : StagingBuffer := { words := Vector.replicate 8 0, marks := Vector.replicate 8 false }

/-- The Path Interface after pin reset with the given straps sampled (R1, R21). -/
def PathInterface.reset (wb : BitVec 3) (bypass : Bool) : PathInterface :=
  { window := wb, bypass := bypass, part := .unconfigured, setup := Setup.reset,
    staging := Vector.replicate 39 StagingBuffer.empty, focusRecipe := none, samplingRecipe := none,
    geometryRecipe := none, lastPost := PostRecord.none, refusals := 0 }

/-- A slot record after a reset (R38). -/
def SlotRecord.reset : SlotRecord :=
  { condition := .unmapped, location := .absent, idState := .unchecked, expectedId := none, readId := none,
    aligned := false, visited := false, rangeFault := false }

/-- Lot tallies all zero (R37, R38). -/
def LotTallies.zero : LotTallies := { present := 0, reviewed := 0, notVisited := 0, faults := 0, mismatches := 0 }

/-- The Wafer Tracker after pin reset and after a tool clear (R38, R55). -/
def WaferTracker.reset : WaferTracker :=
  { lot := .noLot, lotNumber := 0, idCheck := false, idMask := 0, ends := Vector.replicate 25 0,
    slots := Vector.replicate 25 SlotRecord.reset, tallies := LotTallies.zero, robot := none, aligner := none,
    chamber := none, channel := .idle }

/-- Wafer tallies all zero (R69). -/
def WaferTallies.zero : WaferTallies :=
  { selected := 0, skipped := 0, overCap := 0, absent := 0, urgentAdded := 0, classified := 0, notFound := 0, failed := 0,
    failedBy := { arrivalTimeout := 0, focusTimeout := 0, imageTimeout := 0, offWafer := 0, noMode := 0, imageFault := 0 },
    notReviewed := 0, restarts := 0 }

/-- The session record after pin reset and after a tool clear (R70). -/
def Session.reset : Session :=
  { state := .none, chamberSlot := none, recipe := none, offsetX := 0, offsetY := 0, aligned := false, remembered := none,
    cadenceIndex := 0, tallies := WaferTallies.zero, histogram := Vector.replicate 64 0, sequence := 0 }

/-- The Revisit Scheduler after pin reset (R70, R86, R93, R117). -/
def RevisitScheduler.reset : RevisitScheduler :=
  { defects := [], session := Session.reset, table := [], queue := [], lane := [], timer := .stopped, corrections := [],
    cursor := 0, remaining := 0 }

/-- The focus statistics at session start and after a reset (R138, R149). -/
def FocusStats.start : FocusStats :=
  { accepted := 0, residualHigh := 0, residualLow := 0, runCount := 0, runSign := none, driftEvents := 0, calRun := 0,
    calSuppressed := 0, calUnmeasured := 0, minFocus := Config.minFocusStart, maxFocus := Config.maxFocusStart }

/-- The Focus Engine after pin reset (R135, R149). -/
def FocusEngine.reset : FocusEngine := { context := none, zones := [], stats := FocusStats.start, capability := 0 }

/-- The Report Unit after pin reset (R164). -/
def ReportUnit.reset : ReportUnit :=
  { fifo := [], pendingEvents := 0, attn := false, lastRefusal := PostRecord.none, lastRewrite := none, lost := 0,
    waferReportsLost := 0, reportLost := false }

/-- The machine right after a pin reset, with nothing pending. The straps are the board's: WB = 0 and BYPASS low are a DESIGN
CHOICE (log 1); PIN_RESET gives every other strapping. -/
def State.reset : State :=
  { pending := [], traffic := Traffic.none, pi := PathInterface.reset 0 false, wt := WaferTracker.reset,
    rs := RevisitScheduler.reset, fe := FocusEngine.reset, ru := ReportUnit.reset }

end Sys2Proof.Machine
end

