-- ==== Sys2Proof/Machine/Codes.lean ====
section
/-! DEFINITION. The numbered codes of R166 and R167. `ofCode` is `none` on an undefined code (R165). -/

namespace Sys2Proof.Machine

/-- Roles (R167). -/
def roleOfCode : Nat → Option Role
  | 0 => some .other | 1 => some .supervisor | 2 => some .handler | 3 => some .stage | 4 => some .column | 5 => some .imager
  | _ => none

/-- ON/OFF and YES/NO (R167). -/
def switchOfCode : Nat → Option Bool
  | 0 => some false | 1 => some true | _ => none

/-- Record kinds (R166). -/
def kindOfCode : Nat → Option RecordKind
  | 0x01 => some .setup | 0x10 => some .clear | 0x11 => some .lotClose | 0x12 => some .idOverride | 0x13 => some .relocate
  | 0x14 => some .alignment | 0x15 => some .endWafer | 0x16 => some .urgent | 0x17 => some .tableLoad
  | 0x18 => some .ackFlags | 0x20 => some .lotHeader | 0x21 => some .waferEntry | 0x30 => some .focusRecipe
  | 0x31 => some .samplingRecipe | 0x32 => some .geometryRecipe | 0x40 => some .handlerCommand | 0x41 => some .completion
  | 0x42 => some .slotMap | 0x43 => some .idRead | 0x50 => some .arrival | 0x51 => some .sweep | 0x52 => some .capability
  | 0x53 => some .result | _ => none

/-- The words a kind uses (R166). -/
def usedWords : RecordKind → List (Fin 8)
  | .setup => [0, 1, 2, 7]
  | .clear | .lotClose | .endWafer => [7]
  | .idOverride | .relocate | .alignment | .urgent | .tableLoad | .ackFlags => [0, 7]
  | .lotHeader => [0, 1, 2, 3, 4, 5, 6, 7]
  | .waferEntry => [0, 1, 2, 7]
  | .focusRecipe => [0, 1, 2, 3, 7]
  | .samplingRecipe => [0, 1, 2, 7]
  | .geometryRecipe => [0, 1, 2, 3, 4, 7]
  | .handlerCommand => [6, 7]
  | .completion => [0, 7]
  | .slotMap | .idRead => [0, 1, 7]
  | .arrival => [0, 1, 7]
  | .sweep => [0, 1, 2, 3, 7]
  | .capability => [0, 7]
  | .result => [0, 1, 7]

/-- Locations (R167). -/
def Location.code : Location → Nat
  | .absent => 0 | .inCarrier => 1 | .onRobot => 2 | .onAligner => 3 | .inChamber => 4 | .returned => 5 | .unknown => 6

/-- Locations (R167). -/
def locationOfCode : Nat → Option Location
  | 0 => some .absent | 1 => some .inCarrier | 2 => some .onRobot | 3 => some .onAligner | 4 => some .inChamber
  | 5 => some .returned | 6 => some .unknown | _ => none

/-- Identity states (R167). -/
def IdState.code : IdState → Nat
  | .unchecked => 0 | .idUnread => 1 | .idNoReference => 2 | .idOk => 3 | .idMismatch => 4 | .idOverridden => 5

/-- Slot conditions of a slot map (R167). -/
def conditionOfCode : Nat → Option Condition
  | 1 => some .empty | 2 => some .present | 3 => some .double | 4 => some .crossed | _ => none

/-- Verbs (R167). -/
def Verb.code : Verb → Nat
  | .pick => 1 | .place => 2

/-- Verbs (R167). -/
def verbOfCode : Nat → Option Verb
  | 1 => some .pick | 2 => some .place | _ => none

/-- Places (R167). -/
def Place.code : Place → Nat
  | .carrier => 1 | .aligner => 2 | .stage => 3

/-- Places (R167). -/
def placeOfCode : Nat → Option Place
  | 1 => some .carrier | 2 => some .aligner | 3 => some .stage | _ => none

/-- Rewrite reasons; NONE is 0 (R167). -/
def reasonCode : Option RewriteReason → Nat
  | none => 0 | some .notPermitted => 1 | some .malformed => 2 | some .noLot => 3 | some .halted => 4 | some .busy => 5
  | some .lotClosing => 6 | some .robotFull => 7 | some .robotEmpty => 8 | some .slotUnusable => 9 | some .notHere => 10
  | some .reviewedAlready => 11 | some .occupied => 12 | some .wrongSlot => 13 | some .notAligned => 14
  | some .idCheck => 15 | some .noRecipe => 16 | some .siteBusy => 17

/-- Completion outcomes: `true` for DONE, `false` for FAULT (R167). -/
def doneOfCode : Nat → Option Bool
  | 1 => some true | 2 => some false | _ => none

/-- Read status: `true` for READ_OK, `false` for READ_FAIL (R167). -/
def readOkOfCode : Nat → Option Bool
  | 1 => some true | 2 => some false | _ => none

/-- Settle status: `true` for SETTLED, `false` for UNSETTLED (R167). -/
def settledOfCode : Nat → Option Bool
  | 1 => some true | 2 => some false | _ => none

/-- What a result record reports (R112). -/
inductive ResultOutcome where
  | classified | notFound | imageFault
  deriving DecidableEq, Repr

/-- Result outcomes (R167). -/
def resultOfCode : Nat → Option ResultOutcome
  | 1 => some .classified | 2 => some .notFound | 3 => some .imageFault | _ => none

/-- Filter logic (R167). -/
def logicOfCode : Nat → Option FilterLogic
  | 0 => some .or | 1 => some .and | 2 => some .nor | 3 => some .nand | _ => none

/-- Focus steps (R167). -/
def stepOfCode : Nat → Option FocusStep
  | 1 => some .narrow | 2 => some .predict | 3 => some .wide | _ => none

/-- The six modes in the priority order of R132, which is also the order of their codes. -/
def modesInOrder : List Mode := [.seHigh, .bseHigh, .tilt, .seLow, .bseLow, .overview]

/-- The place of a mode in a mode set and among the recipe's offsets: its code less one (R167, R168). -/
def Mode.index : Mode → Fin 6
  | .seHigh => 0 | .bseHigh => 1 | .tilt => 2 | .seLow => 3 | .bseLow => 4 | .overview => 5

/-- Modes (R167). -/
def Mode.code (m : Mode) : Nat := m.index.val + 1

/-- Whether a mode is in a mode set: code c is bit c − 1 (R167). -/
def hasMode (set : ModeSet) (m : Mode) : Bool := set.getLsbD m.index.val

/-- Revisit kinds (R167). -/
def RevisitKind.code : RevisitKind → Nat
  | .regular => 1 | .urgent => 2 | .calibration => 3

/-- Focus sources (R167). -/
def FocusSource.code : FocusSource → Nat
  | .zone => 1 | .neighbours => 2 | .seed => 3 | .wafer => 4 | .nominal => 5

/-- Site states; a state that is no site state reads none, 0 (R167). -/
def siteCode : RevisitState → Nat
  | .dispatched => 1 | .recalling => 2 | .arrived => 3 | .focusing => 4 | .focused => 5
  | .queued | .retired | .failed | .notReviewed => 0

/-- Part states (R167). -/
def PartState.code : PartState → Nat
  | .unconfigured => 1 | .ready => 2

/-- Lot states (R167). -/
def LotState.code : LotState → Nat
  | .noLot => 0 | .loading => 1 | .opened => 2 | .closing => 3

/-- Channel states (R167). -/
def Channel.code : Channel → Nat
  | .idle => 0 | .outstanding _ => 1 | .halted _ _ _ => 2

/-- Session states (R167). -/
def SessionState.code : SessionState → Nat
  | .none => 0 | .aligning => 1 | .active => 2 | .ending => 3 | .exiting => 4

/-- Outcomes; NONE is 0 (R167). -/
def outcomeCode : Option PostOutcome → Nat
  | none => 0 | some .taken => 1 | some .incomplete => 2 | some .partialLine => 3 | some .notPermitted => 4
  | some .wrongState => 5 | some .outOfRange => 6 | some .unknownKind => 7 | some .stale => 8 | some .listLocked => 9
  | some .tableBusy => 10 | some .laneFull => 11 | some .tableFull => 12 | some .already => 13 | some .alreadyDone => 14
  | some .notInWafer => 15

/-- The twelve event kinds (R159). -/
inductive EventKind where
  | setupTaken | recordRefused | commandRewritten | idMismatch | handlingFault | revisitFailed | drift | waferDone
  | lotDone | reportThreshold | reportLost | clearDone
  deriving DecidableEq, Repr

/-- The bit of an event kind in a set (R167). -/
def EventKind.bit : EventKind → Fin 12
  | .setupTaken => 0 | .recordRefused => 1 | .commandRewritten => 2 | .idMismatch => 3 | .handlingFault => 4
  | .revisitFailed => 5 | .drift => 6 | .waferDone => 7 | .lotDone => 8 | .reportThreshold => 9 | .reportLost => 10
  | .clearDone => 11

/-- The set that holds one event kind. -/
def EventKind.set (e : EventKind) : EventSet := BitVec.ofNat 12 (2 ^ e.bit.val)

/-- The byte in which the given flags of an entry stand (R167): RESTARTED 0, UNCORRECTED 1, POSITION_OFF 2,
FOCUS_FALLBACK 3, FOCUS_AT_LIMIT 4, CLAMPED 5. -/
def flagByte (f : EntryFlags) : Nat :=
  f.restarted.toNat + 2 * f.uncorrected.toNat + 4 * f.positionOff.toNat + 8 * f.focusFallback.toNat
    + 16 * f.focusAtLimit.toNat + 32 * f.clamped.toNat

end Sys2Proof.Machine
end

