-- ==== Sys2Proof/Machine/Fields.lean ====
section
/-! DEFINITION. Bit fields of words (R165), byte merging (R7) and the part's arithmetic (R118). -/

namespace Sys2Proof.Machine

/-- The unsigned field of `width` bits whose lowest bit is `lo` (R165). -/
def fld (w : Word) (lo width : Nat) : Nat := w.toNat / 2 ^ lo % 2 ^ width

/-- The signed field of `width` bits whose lowest bit is `lo`, in two's complement (R165). -/
def sfld (w : Word) (lo width : Nat) : Int :=
  if fld w lo width < 2 ^ (width - 1) then (fld w lo width : Int) else (fld w lo width : Int) - 2 ^ width

/-- A word whose field of `width` bits at `lo` holds `v`, every other bit zero (R165). -/
def put (lo width v : Nat) : Word := BitVec.ofNat 64 (v % 2 ^ width * 2 ^ lo)

/-- As `put`, for a signed value in two's complement (R165). -/
def putS (lo width : Nat) (v : Int) : Word := put lo width (v % 2 ^ width).toNat

/-- A word whose one bit at `lo` shows a flag. -/
def putBit (lo : Nat) (b : Bool) : Word := put lo 1 b.toNat

/-- Bit `i` of a word. -/
def bitAt (w : Word) (i : Nat) : Bool := w.getLsbD i

/-- Byte `j` of a word: bits 8j+7..8j (R165). -/
def byteAt (w : Word) (j : Nat) : Byte := BitVec.ofNat 8 (fld w (8 * j) 8)

/-- All eight bits of every byte lane whose mark is set, lanes 7 to 0. -/
def laneMask (lanes : BitVec 8) : Word :=
  (List.range 8).foldl (fun m j => if lanes.getLsbD j then m ||| put (8 * j) 8 255 else m) 0

/-- Each byte whose strobe is set replaces the byte at its position (R7). -/
def mergeBytes (old data : Word) (strobes : BitVec 8) : Word :=
  (old &&& ~~~(laneMask strobes)) ||| (data &&& laneMask strobes)

/-- The quotient n / d rounded to the nearest integer, halves away from zero; d is positive (R118). -/
def roundDiv (n d : Int) : Int :=
  if 0 ≤ n then (2 * n + d) / (2 * d) else -((2 * -n + d) / (2 * d))

/-- A value clamped into a..b (R118). -/
def clamp (a b v : Int) : Int := if v < a then a else if b < v then b else v

/-- A count counted up that holds at its limit (R11, R37). -/
def holdUp (limit n : Nat) : Nat := min (n + 1) limit

/-- A line from its eight words. -/
def lineOf (w0 w1 w2 w3 w4 w5 w6 w7 : Word) : Line := #v[w0, w1, w2, w3, w4, w5, w6, w7]

/-- A line of zero words. -/
def zeroLine : Line := Vector.replicate 8 0

end Sys2Proof.Machine
end

