-- ==== Sys2Proof/Machine/Operands.lean ====
section
/-! DEFINITION. The fields of the records written to the part (R166, R168), and the range checks of the recipes and the setup
(R19, R57 to R60). A record is read only in the fields named here (R165). -/

namespace Sys2Proof.Machine

/-! ## The post word (R166) -/

/-- The kind of a post word, if it names one. -/
def postKind (w : Word) : Option RecordKind := kindOfCode (fld w 0 8)

/-- The writer's tag of a post word. -/
def postTag (w : Word) : BitVec 8 := BitVec.ofNat 8 (fld w 8 8)

/-- The NULL post word that stands for a rewritten handler command: kind NULL, the writer's tag, the reason (R10, R165). -/
def nullPostWord (tag : BitVec 8) (reason : RewriteReason) : Word := put 8 8 tag.toNat ||| put 16 8 (reasonCode (some reason))

/-! ## Setup and control commands -/

/-- The setup a setup record carries, if every field is in its range (R19, R168). -/
def setupOf (w : Line) : Option Setup :=
  let roles := (List.range 16).map fun a => roleOfCode (fld w[0] (4 * a) 4)
  let attempts := fld w[1] 48 8
  let threshold := fld w[2] 0 16
  if roles.all Option.isSome && 1 ≤ attempts && attempts ≤ 3 && 1 ≤ threshold && threshold ≤ 511 then
    some
      { roleMap := Vector.ofFn fun a => (roleOfCode (fld w[0] (4 * a.val) 4)).getD .other
        arrivalLimit := fld w[1] 0 16
        focusLimit := fld w[1] 16 16
        imageLimit := fld w[1] 32 16
        maxAttempts := attempts
        threshold := threshold
        enable := BitVec.ofNat 12 (fld w[2] 16 12) }
  else none

/-- ID_OVERRIDE: the slot number. -/
def overrideSlot (w : Line) : Nat := fld w[0] 0 8

/-- RELOCATE: the slot number. -/
def relocateSlot (w : Line) : Nat := fld w[0] 0 8

/-- RELOCATE: the location, if the code is defined. -/
def relocateLocation (w : Line) : Option Location := locationOfCode (fld w[0] 8 8)

/-- ALIGNMENT: offset x. -/
def alignmentX (w : Line) : Int := sfld w[0] 0 32

/-- ALIGNMENT: offset y. -/
def alignmentY (w : Line) : Int := sfld w[0] 32 32

/-- URGENT: the defect index. -/
def urgentIndex (w : Line) : Nat := fld w[0] 0 16

/-- TABLE_LOAD: the start index. -/
def loadStart (w : Line) : Nat := fld w[0] 0 16

/-- TABLE_LOAD: the count. -/
def loadCount (w : Line) : Nat := fld w[0] 16 16

/-! ## Lot records -/

/-- Twelve characters, eight in the first word and four in the low half of the second (R165, R168). -/
def charsOf (lo hi : Word) : WaferId := Vector.ofFn fun c => if c.val < 8 then byteAt lo c.val else byteAt hi (c.val - 8)

/-- Lot header: the lot number. -/
def headerLotNumber (w : Line) : BitVec 32 := BitVec.ofNat 32 (fld w[0] 0 32)

/-- Lot header: the ID mask. -/
def headerIdMask (w : Line) : BitVec 12 := BitVec.ofNat 12 (fld w[0] 32 12)

/-- Lot header: the ID check enable, if the code is defined. -/
def headerIdCheck (w : Line) : Option Bool := switchOfCode (fld w[0] 44 4)

/-- Lot header: the ending value of a slot: slot 25 in word 0, slot s in word ceil(s / 4) at 16 × ((s − 1) mod 4). -/
def headerEnd (w : Line) (c : CarrierSlot) : Nat :=
  if h : c.val < 24 then fld (w[1 + c.val / 4]'(by omega)) (16 * (c.val % 4)) 16 else fld w[0] 48 16

/-- Wafer entry: the slot number. -/
def entrySlot (w : Line) : Nat := fld w[0] 0 8

/-- Wafer entry: the expected ID. -/
def entryId (w : Line) : WaferId := charsOf w[1] w[2]

/-- Slot map: the condition of a slot, if the code is defined. -/
def mapCondition (w : Line) (c : CarrierSlot) : Option Condition :=
  conditionOfCode (if c.val < 16 then fld w[0] (4 * c.val) 4 else fld w[1] (4 * (c.val - 16)) 4)

/-- ID read: the read characters. -/
def readChars (w : Line) : WaferId := charsOf w[0] w[1]

/-- ID read: the read status, `true` for READ_OK, if the code is defined. -/
def readStatus (w : Line) : Option Bool := readOkOfCode (fld w[1] 32 8)

/-! ## Handler records -/

/-- Handler command: the verb, if the code is defined. -/
def commandVerb (w : Line) : Option Verb := verbOfCode (fld w[6] 0 8)

/-- Handler command: the place, if the code is defined. -/
def commandPlace (w : Line) : Option Place := placeOfCode (fld w[6] 8 8)

/-- Handler command: the carrier slot field. -/
def commandCarrier (w : Line) : BitVec 8 := BitVec.ofNat 8 (fld w[6] 16 8)

/-- Completion: the command's tag. -/
def completionTag (w : Line) : BitVec 8 := BitVec.ofNat 8 (fld w[0] 0 8)

/-- Completion: the outcome, `true` for DONE, if the code is defined. -/
def completionDone (w : Line) : Option Bool := doneOfCode (fld w[0] 8 8)

/-- Completion: the handler fault code. -/
def completionFault (w : Line) : Nat := fld w[0] 16 16

/-! ## Recipes -/

/-- a ≤ v ≤ b. -/
def within (a b v : Int) : Bool := a ≤ v && v ≤ b

/-- Every field of a focus recipe in its range (R57). -/
def focusRangesOk (r : FocusRecipe) : Bool :=
  within (-2048) 2047 r.nominal && within (-2048) 2047 r.floor && within (-2048) 2047 r.ceiling
    && within 5 12 r.wideN && within 1 255 r.wideDz && within 3 12 r.narrowN && within 1 255 r.narrowDz
    && within 1 32767 r.residualHigh && within (-32767) (-1) r.residualLow
    && within 0 4 r.weightShift && (r.driftLimit == 0 || within 2 15 r.driftLimit)
    && within (-150000) 150000 r.calX && within (-150000) 150000 r.calY && within 1 4 r.maxSweeps

/-- The focus recipe a record carries, if every field is in its range (R57, R168). -/
def focusRecipeOf (w : Line) : Option FocusRecipe :=
  (switchOfCode (fld w[1] 40 4)).bind fun carry =>
    let r : FocusRecipe :=
      { nominal := sfld w[0] 0 16, floor := sfld w[0] 16 16, ceiling := sfld w[0] 32 16, contrastFloor := fld w[0] 48 16
        wideN := fld w[1] 0 8, wideDz := fld w[1] 8 8, narrowN := fld w[1] 16 8, narrowDz := fld w[1] 24 8
        weightShift := fld w[1] 32 4, driftLimit := fld w[1] 36 4, carry := carry, maxSweeps := fld w[1] 44 4
        residualHigh := sfld w[2] 0 16, residualLow := sfld w[2] 16 16
        calX := sfld w[3] 0 32, calY := sfld w[3] 32 32 }
    if focusRangesOk r then some r else none

/-- Four attribute nibbles from 16 bits at `lo` (R168). -/
def nibblesOf (w : Word) (lo : Nat) : Nibbles :=
  { cls := BitVec.ofNat 4 (fld w lo 4), size := BitVec.ofNat 4 (fld w (lo + 4) 4),
    region := BitVec.ofNat 4 (fld w (lo + 8) 4), pass := BitVec.ofNat 4 (fld w (lo + 12) 4) }

/-- The sampling recipe a record carries, if every field is in its range. Cadence entries from L on are not checked (R59). -/
def samplingRecipeOf (w : Line) : Option SamplingRecipe :=
  (switchOfCode (fld w[0] 0 4)).bind fun enable1 =>
    (switchOfCode (fld w[0] 4 4)).bind fun enable2 =>
      (logicOfCode (fld w[0] 8 4)).bind fun logic =>
        let cap := fld w[0] 16 16
        let length := fld w[0] 32 8
        if within 1 508 cap && within 1 16 length
            && (List.range length).all (fun j => (stepOfCode (fld w[2] (4 * j) 4)).isSome) then
          some
            { filter1 := { enable := enable1, pattern := nibblesOf w[1] 0, mask := nibblesOf w[1] 16 }
              filter2 := { enable := enable2, pattern := nibblesOf w[1] 32, mask := nibblesOf w[1] 48 }
              logic := logic, cap := cap, cadenceLength := length
              cadence := Vector.ofFn fun j => BitVec.ofNat 4 (fld w[2] (4 * j.val) 4) }
        else none

/-- Every field of a geometry recipe in its range (R60). -/
def geometryRangesOk (r : GeometryRecipe) : Bool :=
  within 1000 40000 r.pitchX && within 1000 40000 r.pitchY && within (-150000) 150000 r.originX
    && within (-150000) 150000 r.originY && within 100000 150000 r.radius && within 1 1000 r.tolerance
    && r.modes != 0 && r.offsets.toList.all (within (-2000) 2000)

/-- The geometry recipe a record carries, if every field is in its range (R60, R168). -/
def geometryRecipeOf (w : Line) : Option GeometryRecipe :=
  let r : GeometryRecipe :=
    { pitchX := fld w[0] 0 32, pitchY := fld w[0] 32 32, originX := sfld w[1] 0 32, originY := sfld w[1] 32 32
      radius := fld w[2] 0 32, tolerance := fld w[2] 32 16, modes := BitVec.ofNat 6 (fld w[2] 48 6)
      offsets := #v[sfld w[3] 0 16, sfld w[3] 16 16, sfld w[3] 32 16, sfld w[3] 48 16, sfld w[4] 0 16, sfld w[4] 16 16] }
  if geometryRangesOk r then some r else none

/-! ## Revisit records -/

/-- The sequence of an arrival, sweep or result record. -/
def recordSequence (w : Line) : BitVec 16 := BitVec.ofNat 16 (fld w[0] 0 16)

/-- Arrival: the settle status, `true` for SETTLED, if the code is defined. -/
def arrivalSettled (w : Line) : Option Bool := settledOfCode (fld w[0] 16 8)

/-- Arrival: the actual stage x. -/
def arrivalX (w : Line) : Int := sfld w[1] 0 32

/-- Arrival: the actual stage y. -/
def arrivalY (w : Line) : Int := sfld w[1] 32 32

/-- Sweep: the sweep number. -/
def sweepNumberOf (w : Line) : Nat := fld w[0] 16 8

/-- Sweep: the count. -/
def sweepCount (w : Line) : Nat := fld w[0] 24 8

/-- Sweep: score j, in word 1 + floor(j / 4) at 16 × (j mod 4), j = 0..11. -/
def sweepScore (w : Line) (j : Fin 12) : Nat := fld (w[1 + j.val / 4]'(by omega)) (16 * (j.val % 4)) 16

/-- Sweep: the first `n` scores. -/
def sweepScores (w : Line) (n : Nat) : List Nat := ((List.finRange 12).map (sweepScore w)).take n

/-- Result: the outcome, if the code is defined. -/
def resultOutcome (w : Line) : Option ResultOutcome := resultOfCode (fld w[0] 16 8)

/-- Result: the class. -/
def resultClass (w : Line) : Nat := fld w[0] 24 8

/-- Column capability: the mode set. -/
def capabilityModes (w : Line) : ModeSet := BitVec.ofNat 6 (fld w[0] 0 6)

/-! ## Bulk records -/

/-- Defect entry: its fields (R168). -/
def defectOf (w : Line) : DefectEntry :=
  { column := sfld w[0] 0 8, row := sfld w[0] 8 8, inX := fld w[0] 16 16, inY := fld w[0] 32 16,
    attributes := nibblesOf w[0] 48, source := BitVec.ofNat 32 (fld w[1] 0 32) }

/-- Table stream: the valid mark of a stream entry. -/
def streamValid (x : Word) : Bool := bitAt x 32

/-- Table stream: dx and dy of a stream entry. -/
def streamOffsets (x : Word) : Int × Int := (sfld x 0 16, sfld x 16 16)

end Sys2Proof.Machine
end

