-- ==== Sys2Proof/Machine/Bus.lean ====
section
/-! DEFINITION. The tool region and its map (R1, R3), and where the beats of an AXI4 burst fall (R3). -/

namespace Sys2Proof.Machine

/-! ## Placing the beats of a burst (R3) -/

/-- Bytes of one beat. -/
def beatBytes (h : BurstHeader) : Nat := 2 ^ h.size.val

/-- The address of beat `i` of a burst of `length` beats. An incrementing burst places its first beat at the start address and
each later beat at the next address aligned to the beat size. A wrapping burst returns to the start of the aligned block of
beat count × beat size bytes at that block's end. A fixed burst stays at its start address (R3). -/
def beatAddr (h : BurstHeader) (length i : Nat) : Nat :=
  let start := h.addr.toNat
  let bytes := beatBytes h
  match h.kind with
  | .fixed => start
  | .incr => if i = 0 then start else start / bytes * bytes + i * bytes
  | .wrap =>
    let block := length * bytes
    let low := start / block * block
    if start + i * bytes < low + block then start + i * bytes else start + i * bytes - block

/-- The byte lanes a beat at address `a` uses: from the byte it addresses to the end of the aligned group of beat size bytes
that holds it (R3). -/
def beatLanes (h : BurstHeader) (a : Nat) : BitVec 8 :=
  let low := a % 8
  let high := low / beatBytes h * beatBytes h + beatBytes h
  BitVec.ofNat 8 (2 ^ high - 2 ^ low)

/-- The beats of a write burst where the burst places them, each with the strobes of the lanes it uses (R3, R7; log 11). -/
def placedBeats (b : WriteBurst) : List PlacedBeat :=
  b.beats.mapIdx fun i d =>
    let a := beatAddr b.header b.beats.length i
    { addr := a, data := d.data, strobes := d.strobes &&& beatLanes b.header a }

/-- The addresses of the beats of a read burst, in order. -/
def readAddrs (r : ReadBurst) : List Nat := (List.range r.length).map (beatAddr r.header r.length)

/-! ## The region (R1, R3) -/

/-- First address of the tool region for window base index k: (k + 1) × 256 MiB (R1). -/
def regionBase (k : BitVec 3) : Nat := (k.toNat + 1) * Config.windowStep

/-- Whether an address lies in the tool region. A burst lies in the region when its start address does (R2). -/
def inRegion (k : BitVec 3) (a : Nat) : Bool := regionBase k ≤ a && a < regionBase k + Config.regionBytes

/-- The slot number of an address of the region: its offset divided by 64 (R3). -/
def slotOfAddr (k : BitVec 3) (a : Nat) : Nat := (a - regionBase k) / 64

/-- The word of its slot in which an address lies (R3). -/
def wordOfAddr (a : Nat) : Fin 8 := ⟨a / 8 % 8, Nat.mod_lt _ (by decide)⟩

/-- Slot numbers of the staged slots (R3). -/
def stagedNumber : StagedSlot → Nat
  | .setup => 0
  | .control => 1
  | .lotHeader => 64
  | .waferEntry n => 65 + n.val
  | .focusRecipe => 128
  | .samplingRecipe => 129
  | .geometryRecipe => 130
  | .mailbox => 192
  | .completion => 193
  | .slotMap => 194
  | .idRead => 195
  | .arrival => 257
  | .sweep => 259
  | .capability => 260
  | .result => 261

/-- The place of a staged slot's buffer among the 39 staging buffers. -/
def stagedIndex : StagedSlot → Fin 39
  | .setup => 0
  | .control => 1
  | .lotHeader => 2
  | .waferEntry n => ⟨3 + n.val, by omega⟩
  | .focusRecipe => 28
  | .samplingRecipe => 29
  | .geometryRecipe => 30
  | .mailbox => 31
  | .completion => 32
  | .slotMap => 33
  | .idRead => 34
  | .arrival => 35
  | .sweep => 36
  | .capability => 37
  | .result => 38

/-- The staged slots other than the wafer entries. -/
def plainStagedSlots : List StagedSlot :=
  [.setup, .control, .lotHeader, .focusRecipe, .samplingRecipe, .geometryRecipe, .mailbox, .completion, .slotMap, .idRead,
   .arrival, .sweep, .capability, .result]

/-- The staged slot with a slot number, if there is one (R3). -/
def stagedOfNumber (n : Nat) : Option StagedSlot :=
  if h : 65 ≤ n ∧ n ≤ 89 then some (.waferEntry ⟨n - 65, by omega⟩)
  else plainStagedSlots.find? fun t => stagedNumber t = n

/-- Slot numbers of the bulk slots (R3). -/
def bulkNumber : BulkSlot → Nat
  | .tableStream => 320
  | .defect i => 1024 + i.val

/-- The bulk slot with a slot number, if there is one (R3). -/
def bulkOfNumber (n : Nat) : Option BulkSlot :=
  if n = 320 then some .tableStream
  else if h : 1024 ≤ n ∧ n < 5120 then some (.defect ⟨n - 1024, by omega⟩)
  else none

/-- The served slots; the 64 slots of the report window are one served area (R3). -/
inductive ServedSlot where
  | status | event | target | plan | reportWindow
  deriving DecidableEq, Repr

/-- The served slot with a slot number, if there is one (R3). -/
def servedOfNumber (n : Nat) : Option ServedSlot :=
  if n = 2 then some .status
  else if n = 3 then some .event
  else if n = 256 then some .target
  else if n = 258 then some .plan
  else if 8192 ≤ n && n ≤ 8255 then some .reportWindow
  else none

/-- The beats of a write burst that fall in the slot numbered `n`, in the order of the burst (R7). -/
def shareOf (k : BitVec 3) (n : Nat) (b : WriteBurst) : List PlacedBeat :=
  (placedBeats b).filter fun p => regionBase k ≤ p.addr && slotOfAddr k p.addr == n

/-- A beat writes a word when it addresses it with at least one strobe set (R8). -/
def writesWord (p : PlacedBeat) (w : Fin 8) : Bool := wordOfAddr p.addr == w && p.strobes != 0

/-- The share of a burst in a slot writes the slot's word 7: in a staged slot it is a post (R8). -/
def isPost (share : List PlacedBeat) : Bool := share.any fun p => writesWord p 7

/-! ## A burst over several slots (R8, R12) -/

/-- The beat gives its slot the slot's place in the order of a burst: in a staged slot the burst posts, a beat that writes word 7;
in every other slot, any beat (R8, R12). -/
def placesSlot (k : BitVec 3) (b : WriteBurst) (p : PlacedBeat) : Bool :=
  regionBase k ≤ p.addr
    && (writesWord p 7 || (stagedOfNumber (slotOfAddr k p.addr)).isNone || !isPost (shareOf k (slotOfAddr k p.addr) b))

/-- The slots a burst addresses, each once, in the order in which the part treats them: posts in the order of their post words,
every other slot in the order addressed (R8, R12; log 4). -/
def slotOrder (k : BitVec 3) (b : WriteBurst) : List Nat :=
  (((placedBeats b).filter (placesSlot k b)).map fun p => slotOfAddr k p.addr).eraseDups

/-! ## The bursts commands carry -/

/-- The write burst of a write command. -/
def writeTarget : Instr → Option WriteBurst
  | .stagedWrite _ b | .setup b | .clear b | .lotClose b | .idOverride b | .relocate b | .alignment b | .endWafer b | .urgent b
  | .tableLoad b | .ackFlags b | .lotHeader b | .waferEntry _ b | .focusRecipe b | .samplingRecipe b | .geometryRecipe b
  | .pickCarrier b | .pickAligner b | .pickStage b | .placeAligner b | .placeStage b | .placeCarrier b | .completion b
  | .slotMap b | .idRead b | .defectEntry _ b | .bulkPartial _ b | .tableStreamLine b | .arrival b | .sweep b | .columnCapability b
  | .result b | .unknownKindPost _ b => some b
  | .pinReset _ _ | .targetRead _ | .arrivalStepExpiry | .recallExpiry | .focusStepExpiry | .imageStepExpiry | .planRead _
  | .eventRead _ | .reportWindowRead _ _ _ | .straddlingRead _ => none

/-- The read burst of a read command. -/
def readTarget : Instr → Option ReadBurst
  | .targetRead r | .planRead r | .eventRead r | .straddlingRead r | .reportWindowRead r _ _ => some r
  | _ => none

/-- The address phase of the burst a command carries. -/
def headerOf (c : Instr) : Option BurstHeader :=
  (writeTarget c).map (·.header) <|> (readTarget c).map (·.header)

/-- A waiting command is a transaction in progress: its address is accepted (log 6), or some beats of its report window read have
been formed (R21; log 16). -/
def inProgress (c : Instr) : Bool :=
  ((headerOf c).bind (·.heldRole)).isSome
    || match c with
      | .reportWindowRead _ first _ => first != 0
      | _ => false

end Sys2Proof.Machine
end

