-- ==== Sys2Proof/Machine/Flags.lean ====
section
/-! DEFINITION. Events and the attention line (R159, R160), the recording of posts and rewrites (R10, R11), and the storing of
composed records in the report FIFO (R151, R152). Each acts on the Report Unit, or on the Path Interface's post fields. -/

namespace Sys2Proof.Machine

/-- ATTN is high while at least one kind is both pending and enabled (R160). -/
def attnOf (enable pendingEvents : EventSet) : Bool := pendingEvents &&& enable != 0

/-- The attention line brought to its condition, after a change of either set (R160). -/
def syncAttn (enable : EventSet) (r : ReportUnit) : ReportUnit := { r with attn := attnOf enable r.pendingEvents }

/-- The Report Unit with an event kind raised: the kind is pending from now on (R159). -/
def raiseIn (enable : EventSet) (e : EventKind) (r : ReportUnit) : ReportUnit :=
  syncAttn enable { r with pendingEvents := r.pendingEvents ||| e.set }

/-- A block raises an event kind at the Report Unit (R159). -/
def raise (e : EventKind) (s : State) : State := { s with ru := raiseIn s.pi.setup.enable e s.ru }

/-- The last-post field and the refusal count after a post with this outcome (R11). -/
def postFields (slot : Nat) (tag : BitVec 8) (o : PostOutcome) (p : PathInterface) : PathInterface :=
  { p with
    lastPost := { slot := slot, tag := tag, outcome := some o }
    refusals := if o = .taken then p.refusals else holdUp Config.hold16 p.refusals }

/-- The Report Unit after a refusal: RECORD_REFUSED raised, the refusal kept as the last one (R11). -/
def refusalIn (enable : EventSet) (slot : Nat) (tag : BitVec 8) (o : PostOutcome) (r : ReportUnit) : ReportUnit :=
  if o = .taken then r
  else raiseIn enable .recordRefused { r with lastRefusal := { slot := slot, tag := tag, outcome := some o } }

/-- A post is recorded with its outcome; an outcome other than TAKEN is a refusal (R11). -/
def recordPost (slot : Nat) (tag : BitVec 8) (o : PostOutcome) (s : State) : State :=
  { s with
    pi := postFields slot tag o s.pi
    ru := refusalIn s.pi.setup.enable slot tag o s.ru }

/-- A handler command rewritten: COMMAND_REWRITTEN is raised and the reason kept (R10). -/
def recordRewrite (reason : RewriteReason) (s : State) : State :=
  { s with ru := raiseIn s.pi.setup.enable .commandRewritten { s.ru with lastRewrite := some reason } }

/-- A composed record is stored or dropped whole (R151). A store that takes the count from at or below T to above T raises
REPORT_THRESHOLD (R152); a drop sets REPORT_LOST, counts, raises REPORT_LOST, and for a wafer report counts up the
wafer-reports-lost count. -/
def storeIn (enable : EventSet) (threshold : Nat) (isWafer : Bool) (record : List Word) (r : ReportUnit) : ReportUnit :=
  let before := r.fifo.length
  let after := before + record.length
  if record.length ≤ Config.fifoWords - before then
    let stored := { r with fifo := r.fifo ++ record }
    if before ≤ threshold && threshold < after then raiseIn enable .reportThreshold stored else stored
  else
    raiseIn enable .reportLost
      { r with
        reportLost := true
        lost := holdUp Config.hold16 r.lost
        waferReportsLost := if isWafer then holdUp Config.hold8 r.waferReportsLost else r.waferReportsLost }

/-- `storeIn` under the setup in force. -/
def storeRecord (isWafer : Bool) (record : List Word) (s : State) : State :=
  { s with ru := storeIn s.pi.setup.enable s.pi.setup.threshold isWafer record s.ru }

end Sys2Proof.Machine
end

