-- ==== Sys2Proof/Machine/Store.lean ====
section
/-! DEFINITION. The sparse stores: (index, entry) pairs with indices strictly rising (log 18). -/

namespace Sys2Proof.Machine

/-- The entry at an index, if its mark is set. -/
def Sparse.lookup {α : Type} : Sparse α → Nat → Option α
  | [], _ => none
  | (j, a) :: rest, i => if j = i then some a else Sparse.lookup rest i

/-- The store with an entry put at an index, replacing what stood there. -/
def Sparse.insert {α : Type} : Sparse α → Nat → α → Sparse α
  | [], i, a => [(i, a)]
  | (j, b) :: rest, i, a =>
    if i < j then (i, a) :: (j, b) :: rest
    else if i = j then (i, a) :: rest
    else (j, b) :: Sparse.insert rest i a

/-- The store with the mark of an index cleared. -/
def Sparse.erase {α : Type} (m : Sparse α) (i : Nat) : Sparse α := m.filter fun p => p.1 ≠ i

/-- The store with every entry changed by a function. -/
def Sparse.mapValues {α : Type} (f : α → α) (m : Sparse α) : Sparse α := m.map fun p => (p.1, f p.2)

/-- The canonical form: indices strictly rising and below a bound. -/
def Sparse.wf {α : Type} (bound : Nat) (m : Sparse α) : Bool :=
  decide ((m.map Prod.fst).Pairwise (· < ·)) && (m.map Prod.fst).all (· < bound)

end Sys2Proof.Machine
end

