-- ==== Sys2Proof/Machine/Ops.lean ====
section
/-! DEFINITION. The shared operations on the blocks' state: slot records and places, the revisit table and its two lists, the
step timer, the session's tallies, and the ways an entry leaves its site. Operations on one block act on that block alone, so that
what they leave unchanged can be read off their type. -/

namespace Sys2Proof.Machine

/-! ## Slots of the lot (R24, R27, R39) -/

/-- The number of a carrier slot, 1..25. -/
def slotNumber (c : CarrierSlot) : Nat := c.val + 1

/-- The carrier slot with a number, if it lies in 1..25. -/
def slotOfNumber (n : Nat) : Option CarrierSlot := if h : 1 ≤ n ∧ n ≤ 25 then some ⟨n - 1, by omega⟩ else none

/-- A carrier slot's record. -/
def slotOf (t : WaferTracker) (c : CarrierSlot) : SlotRecord := t.slots[c]

/-- The Wafer Tracker with one slot record changed. -/
def modSlot (c : CarrierSlot) (f : SlotRecord → SlotRecord) (t : WaferTracker) : WaferTracker :=
  { t with slots := t.slots.set c.val (f t.slots[c]) c.isLt }

/-- e(s − 1), the first index of a slot's range; e(0) is 0 (R27). -/
def rangeStart (t : WaferTracker) (c : CarrierSlot) : Nat :=
  if h : c.val = 0 then 0 else t.ends[c.val - 1]'(by omega)

/-- e(s), the index after a slot's range (R27). -/
def rangeEnd (t : WaferTracker) (c : CarrierSlot) : Nat := t.ends[c]

/-- Whether a defect index lies in a slot's range (R27). -/
def inRange (t : WaferTracker) (c : CarrierSlot) (i : Nat) : Bool := rangeStart t c ≤ i && i < rangeEnd t c

/-- All carrier slots, 1 to 25. -/
def allSlots : List CarrierSlot := List.finRange 25

/-- The lot is at rest (R34). -/
def atRest (t : WaferTracker) : Bool :=
  t.slots.toList.all (fun r => r.location == .absent || r.location == .inCarrier || r.location == .returned)
    && t.robot == none && t.aligner == none && t.chamber == none && t.channel == .idle

/-! ## Role and staging (R5, R6, R7) -/

/-- The role of a transaction: the one it keeps from its acceptance, or the one the role map in force gives its agent (R5). -/
def roleOf (p : PathInterface) (h : BurstHeader) : Role := h.heldRole.getD p.setup.roleMap[h.agent.toFin]

/-- The roles that may write a staged slot (R6). -/
def mayWrite (part : PartState) (slot : StagedSlot) (r : Role) : Bool :=
  match slot with
  | .setup => part == .unconfigured || r == .supervisor
  | .control | .lotHeader | .waferEntry _ | .focusRecipe | .samplingRecipe | .geometryRecipe | .mailbox => r == .supervisor
  | .completion | .slotMap | .idRead => r == .handler
  | .arrival => r == .stage
  | .sweep | .result => r == .imager
  | .capability => r == .column

/-- A staged slot that is active: in UNCONFIGURED the setup slot alone (R4); none in a bypassed part (R1). -/
def stagedActive (p : PathInterface) (slot : StagedSlot) : Bool := !p.bypass && (p.part == .ready || slot == .setup)

/-- The staging buffer of a slot. -/
def bufferOf (p : PathInterface) (slot : StagedSlot) : StagingBuffer := p.staging[stagedIndex slot]

/-- The Path Interface with one staging buffer replaced. -/
def setBuffer (slot : StagedSlot) (u : StagingBuffer) (p : PathInterface) : PathInterface :=
  { p with staging := p.staging.set (stagedIndex slot).val u (stagedIndex slot).isLt }

/-- One beat merged into a staging buffer (R7). -/
def mergeBeat (u : StagingBuffer) (p : PlacedBeat) : StagingBuffer :=
  if p.strobes = 0 then u
  else
    let w := wordOfAddr p.addr
    { words := u.words.set w.val (mergeBytes u.words[w] p.data p.strobes) w.isLt
      marks := u.marks.set w.val true w.isLt }

/-- A buffer's marks cleared, its words kept (R7). -/
def clearMarks (u : StagingBuffer) : StagingBuffer := { u with marks := Vector.replicate 8 false }

/-! ## The revisit table and its lists (R77 to R81) -/

/-- The five site states (R77). -/
def isSite : RevisitState → Bool
  | .dispatched | .recalling | .arrived | .focusing | .focused => true
  | .queued | .retired | .failed | .notReviewed => false

/-- The site entry with its tag: the entry of the table in a site state, if there is one (R98). -/
def siteEntry (r : RevisitScheduler) : Option (Nat × RevisitEntry) := r.table.find? fun p => isSite p.2.state

/-- The table with one entry changed. -/
def modEntry (tag : Nat) (f : RevisitEntry → RevisitEntry) (r : RevisitScheduler) : RevisitScheduler :=
  match Sparse.lookup r.table tag with
  | none => r
  | some e => { r with table := Sparse.insert r.table tag (f e) }

/-- An entry put at a tag. -/
def putEntry (tag : Nat) (e : RevisitEntry) (r : RevisitScheduler) : RevisitScheduler :=
  { r with table := Sparse.insert r.table tag e }

/-- A tag put at the head of the regular queue. -/
def queueHead (tag : Nat) (r : RevisitScheduler) : RevisitScheduler := { r with queue := tag :: r.queue }

/-- A tag put at the head of the priority lane. -/
def laneHead (tag : Nat) (r : RevisitScheduler) : RevisitScheduler := { r with lane := tag :: r.lane }

/-- A tag appended at the tail of the priority lane. -/
def laneTail (tag : Nat) (r : RevisitScheduler) : RevisitScheduler := { r with lane := r.lane ++ [tag] }

/-- The lane's occupancy: its tags, and one more for a site entry of kind URGENT or CALIBRATION (R81). -/
def laneOccupancy (r : RevisitScheduler) : Nat :=
  r.lane.length + match siteEntry r with
    | some (_, e) => if e.kind = .regular then 0 else 1
    | none => 0

/-- The lane is full (R81). -/
def laneFull (r : RevisitScheduler) : Bool := Config.lanePlaces ≤ laneOccupancy r

/-- A fresh QUEUED entry (R76, R83, R85). -/
def newEntry (kind : RevisitKind) (defect : Option Nat) : RevisitEntry :=
  { kind := kind, defect := defect, state := .queued, attempts := 0, sweeps := 0, flags := EntryFlags.clear,
    sequence := none, target := none }

/-- A tag has joined the priority lane: a REGULAR entry that is DISPATCHED becomes RECALLING (R105). -/
def recallOnJoin (r : RevisitScheduler) : RevisitScheduler :=
  match siteEntry r with
  | some (tag, e) =>
    if e.kind = .regular ∧ e.state = .dispatched then modEntry tag (fun e => { e with state := .recalling }) r else r
  | none => r

/-! ## The step timer (R108) -/

/-- The timer started from zero elapsed time with a limit; a limit of 0 leaves it stopped. -/
def timerFor (limit : Nat) : StepTimer := if limit = 0 then .stopped else .running limit 0 true

/-- The timer started or restarted. -/
def startTimer (limit : Nat) (r : RevisitScheduler) : RevisitScheduler := { r with timer := timerFor limit }

/-- The timer stopped. -/
def stopTimer (r : RevisitScheduler) : RevisitScheduler := { r with timer := .stopped }

/-- Whether the timer is running. -/
def timerRunning (r : RevisitScheduler) : Bool := r.timer != .stopped

/-! ## The session's tallies (R69) -/

/-- The session's tallies changed. -/
def modTallies (f : WaferTallies → WaferTallies) (r : RevisitScheduler) : RevisitScheduler :=
  { r with session := { r.session with tallies := f r.session.tallies } }

/-- The tally of one failure reason counted up. -/
def countReason (reason : FailReason) (f : FailTallies) : FailTallies :=
  match reason with
  | .arrivalTimeout => { f with arrivalTimeout := f.arrivalTimeout + 1 }
  | .focusTimeout => { f with focusTimeout := f.focusTimeout + 1 }
  | .imageTimeout => { f with imageTimeout := f.imageTimeout + 1 }
  | .offWafer => { f with offWafer := f.offWafer + 1 }
  | .noMode => { f with noMode := f.noMode + 1 }
  | .imageFault => { f with imageFault := f.imageFault + 1 }

/-- A failure counted, for a REGULAR or URGENT entry (R114). -/
def countFailure (kind : RevisitKind) (reason : FailReason) (t : WaferTallies) : WaferTallies :=
  if kind = .calibration then t else { t with failed := t.failed + 1, failedBy := countReason reason t.failedBy }

/-- An entry made NOT_REVIEWED counted, for a REGULAR or URGENT entry (R66, R69). -/
def countNotReviewed (kind : RevisitKind) (n : Nat) (t : WaferTallies) : WaferTallies :=
  if kind = .calibration then t else { t with notReviewed := t.notReviewed + n }

/-- A restart counted (R69, R106). -/
def countRestart (t : WaferTallies) : WaferTallies := { t with restarts := holdUp Config.hold16 t.restarts }

/-- A class of the histogram counted up; a value that is no class counts nowhere (R69). -/
def countClass (c : Nat) (h : Vector Nat 64) : Vector Nat 64 := if hc : c < 64 then h.set c (h[c] + 1) hc else h

/-- Every QUEUED entry, in the queue and in the lane, becomes NOT_REVIEWED; REGULAR and URGENT ones are counted; both lists are
emptied (R65, R68). -/
def dropQueued (r : RevisitScheduler) : RevisitScheduler :=
  let queued := r.table.filter fun p => p.2.state == .queued && p.2.kind != .calibration
  modTallies (fun t => { t with notReviewed := t.notReviewed + queued.length })
    { r with
      table := Sparse.mapValues (fun e => if e.state = .queued then { e with state := .notReviewed } else e) r.table
      queue := []
      lane := [] }

/-! ## The Focus Engine's notices (R115, R130) -/

/-- The site is free: the focus context becomes absent (R119). -/
def siteFree (f : FocusEngine) : FocusEngine := { f with context := none }

/-- The statistics changed. -/
def modStats (g : FocusStats → FocusStats) (f : FocusEngine) : FocusEngine := { f with stats := g f.stats }

/-- Calibrations unmeasured counted up (R130). -/
def countUnmeasured (f : FocusEngine) : FocusEngine :=
  modStats (fun t => { t with calUnmeasured := holdUp Config.hold8 t.calUnmeasured }) f

/-- A calibration's end without a measurement is counted; another entry's end is not (R113, R114, R130). -/
def countIfCalibration (kind : RevisitKind) (f : FocusEngine) : FocusEngine :=
  if kind = .calibration then countUnmeasured f else f

/-! ## Leaving the site (R113, R114, R115) -/

/-- The entry at a tag fails with a reason (R114). The timer stops and the site is free if it was in a site state. -/
def failEntry (tag : Nat) (reason : FailReason) (s : State) : State :=
  match Sparse.lookup s.rs.table tag with
  | none => s
  | some e =>
    { s with
      rs := modTallies (countFailure e.kind reason)
        (putEntry tag { e with state := .failed } (if isSite e.state then stopTimer s.rs else s.rs))
      fe := countIfCalibration e.kind (if isSite e.state then siteFree s.fe else s.fe)
      ru := raiseIn s.pi.setup.enable .revisitFailed s.ru }

/-- The entry at a tag leaves its site in another state: the timer stops and the Focus Engine is told that the site is free. -/
def leaveSite (tag : Nat) (f : RevisitEntry → RevisitEntry) (s : State) : State :=
  { s with
    rs := modEntry tag f (stopTimer s.rs)
    fe := siteFree s.fe }

/-- The entry at a tag retires (R113); what its end counts is the caller's. -/
def retireEntry (tag : Nat) (s : State) : State := leaveSite tag (fun e => { e with state := .retired }) s

/-- The recall of the entry at a tag: QUEUED at the head of the regular queue, RESTARTED set, a restart counted (R106, R110). -/
def makeRecall (tag : Nat) (s : State) : State :=
  let left := leaveSite tag (fun e => { e with state := .queued, flags := { e.flags with restarted := true } }) s
  { left with rs := queueHead tag (modTallies countRestart left.rs) }

/-! ## The ports (log 7) -/

/-- A write burst passed downstream with the given beats, and memory's response returned upstream (R2, R17). -/
def passWrite (b : WriteBurst) (beats : List WriteData) (s : State) : State :=
  { s with
    traffic := { Traffic.none with
      downWrite := some { header := b.header, beats := beats }, upWrite := some { header := b.header, response := b.answer } } }

/-- A read passed downstream to memory, and memory's beats returned upstream (R2). -/
def passRead (r : ReadBurst) (s : State) : State :=
  { s with
    traffic := { Traffic.none with
      downRead := some { header := r.header, length := r.length }, upRead := some { header := r.header, beats := r.answer } } }

/-- A read answered by the part itself (R13). -/
def answerRead (h : BurstHeader) (beats : List ReadBeat) (s : State) : State :=
  { s with traffic := { Traffic.none with upRead := some { header := h, beats := beats } } }

/-- The ports idle. -/
def idlePorts (s : State) : State := { s with traffic := Traffic.none }

end Sys2Proof.Machine
end

