-- ==== Sys2Proof/Machine/Posting.lean ====
section
/-! DEFINITION. Record intake and served reads at the Path Interface: the merge and the post of a staged slot (R7 to R9), the
handler command mailbox (R10), the claims on a bulk slot (R12), a whole write burst (R2, R3, R17), and the answering of a read
burst (R13 to R16). What an owner decides is a parameter here. -/

namespace Sys2Proof.Machine

/-- What an owner answers to a record: the outcome, and the state it leaves (R9, R11). -/
abbrev Decision := PostOutcome × State

/-- An owner's decision on the eight words of a record. -/
abbrev Owner := Line → State → Decision

/-- The decision of the Wafer Tracker on a handler command, by its words and tag: a rewrite reason, or pass (R10). -/
abbrev CommandJudge := Line → BitVec 8 → State → Except RewriteReason State

/-- A table of owners, by the kind a slot accepts. -/
abbrev OwnerTable := RecordKind → Option Owner

/-- A table of owners with one kind's owner named (the row's own decision). -/
def withOwner (k : RecordKind) (own : Owner) (rest : OwnerTable) : OwnerTable := fun j => if j = k then some own else rest j

/-- Everyone who decides what a write burst brings: the owners of each staged slot's kinds, the judge of a handler command, and the
owner of each bulk slot. -/
structure Deciders where
  staged : StagedSlot → OwnerTable
  judge : CommandJudge
  bulk : BulkSlot → Owner

/-- A record is refused: the owner's state stands (R9). -/
def refuse (o : PostOutcome) (s : State) : Decision := (o, s)

/-- A record is taken. -/
def take (s : State) : Decision := (.taken, s)

/-! ## Staged slots (R7, R8, R9) -/

/-- A beat's strobed bytes laid over a word (R8). -/
def layOver (w : Word) (p : PlacedBeat) : Word := mergeBytes w p.data p.strobes

/-- The staging buffer after the share of a burst is merged; a role that may not write the slot merges nothing (R6, R7). -/
def mergeShare (permitted : Bool) (share : List PlacedBeat) (u : StagingBuffer) : StagingBuffer :=
  if permitted then share.foldl mergeBeat u else u

/-- The post word from which a post's tag is read: the merged one, or, for a writer that may not write the slot, its own word-7
beats laid over the buffer's word (R8). -/
def tagWord (permitted : Bool) (share : List PlacedBeat) (u : StagingBuffer) : Word :=
  if permitted then (mergeShare permitted share u).words[7]
  else (share.filter fun p => writesWord p 7).foldl layOver u.words[7]

/-- Every word the kind uses has its written mark set (R9). -/
def complete (k : RecordKind) (u : StagingBuffer) : Bool := (usedWords k).all fun w => u.marks[w]

/-- The three checks of a post, then the owner's decision (R9). -/
def judgePost (owners : OwnerTable) (permitted : Bool) (u : StagingBuffer) (s : State) : Decision :=
  if permitted then
    match postKind u.words[7] with
    | none => refuse .unknownKind s
    | some k =>
      match owners k with
      | none => refuse .unknownKind s
      | some own => if complete k u then own u.words s else refuse .incomplete s
  else refuse .notPermitted s

/-- A write burst passes the part untouched: it lies outside the tool region, or the part is bypassed (R1, R2). -/
def passesBy (p : PathInterface) (h : BurstHeader) : Bool := p.bypass || !inRegion p.window h.addr.toNat

/-- A post of a staged slot: the marks are cleared, the post is decided and recorded (R9, R11). -/
def postShare (owners : OwnerTable) (slot : StagedSlot) (ok : Bool) (share : List PlacedBeat) (s : State) : State :=
  let old := bufferOf s.pi slot
  let merged := mergeShare ok share old
  let d := judgePost owners ok merged { s with pi := setBuffer slot (clearMarks merged) s.pi }
  recordPost (stagedNumber slot) (postTag (tagWord ok share old)) d.1 d.2

/-- The share of a write burst in a staged slot, from a writer of a role: merged, and posted if it writes word 7 (R6 to R8). In a
slot that is not active it does nothing (R4). -/
def stagedStep (owners : OwnerTable) (role : Role) (slot : StagedSlot) (b : WriteBurst) (s : State) : State :=
  if stagedActive s.pi slot then
    let share := shareOf s.pi.window (stagedNumber slot) b
    let ok := mayWrite s.pi.part slot role
    if isPost share then postShare owners slot ok share s
    else { s with pi := setBuffer slot (mergeShare ok share (bufferOf s.pi slot)) s.pi }
  else s

/-! ## The handler command mailbox (R10) -/

/-- A beat is held back: it writes word 7 of the mailbox (R10). -/
def heldBeat (k : BitVec 3) (p : PlacedBeat) : Bool :=
  regionBase k ≤ p.addr && slotOfAddr k p.addr == stagedNumber .mailbox && writesWord p 7

/-- The beats of a burst as they reach memory when the command is rewritten: each held beat is replaced by the NULL post word with
all eight strobes set, and every other goes as written (R10). -/
def rewriteBeats (k : BitVec 3) (tag : BitVec 8) (reason : RewriteReason) (b : WriteBurst) : List WriteData :=
  List.zipWith (fun d p => if heldBeat k p then { data := nullPostWord tag reason, strobes := 255 } else d) b.beats (placedBeats b)

/-- A command is rewritten: the reason goes to memory with the tag, COMMAND_REWRITTEN is raised, and the post is recorded with an
outcome other than TAKEN (R10). -/
def rewriteCommand (b : WriteBurst) (tag : BitVec 8) (reason : RewriteReason) (o : PostOutcome) (s : State) : State :=
  recordPost (stagedNumber .mailbox) tag o (recordRewrite reason (passWrite b (rewriteBeats s.pi.window tag reason b) s))

/-- The decision on a post of the mailbox, in the order of R10, and its recording. -/
def judgeMailbox (judge : CommandJudge) (ok : Bool) (b : WriteBurst) (tag : BitVec 8) (u : StagingBuffer) (s : State) : State :=
  if ok then
    if postKind u.words[7] = some .handlerCommand then
      if complete .handlerCommand u then
        match judge u.words tag s with
        | .ok passed => recordPost (stagedNumber .mailbox) tag .taken passed
        | .error reason => rewriteCommand b tag reason .wrongState s
      else rewriteCommand b tag .malformed .incomplete s
    else rewriteCommand b tag .malformed .unknownKind s
  else rewriteCommand b tag .notPermitted .notPermitted s

/-- The share of a write burst in the mailbox, in READY (R7, R10). -/
def mailboxStep (judge : CommandJudge) (role : Role) (b : WriteBurst) (s : State) : State :=
  if stagedActive s.pi .mailbox then
    let share := shareOf s.pi.window (stagedNumber .mailbox) b
    let ok := mayWrite s.pi.part .mailbox role
    let old := bufferOf s.pi .mailbox
    let merged := mergeShare ok share old
    if isPost share then
      judgeMailbox judge ok b (postTag (tagWord ok share old)) merged
        { s with pi := setBuffer .mailbox (clearMarks merged) s.pi }
    else { s with pi := setBuffer .mailbox merged s.pi }
  else s

/-! ## Bulk slots (R12) -/

/-- The share writes each of the eight words exactly once, with a 64-bit beat that has all eight strobes set (R12). -/
def fullLine (h : BurstHeader) (share : List PlacedBeat) : Bool :=
  beatBytes h == 8
    && (List.finRange 8).all (fun w => (share.filter fun p => wordOfAddr p.addr == w).length == 1)
    && share.all (fun p => p.strobes == 255)

/-- The eight words a full line writes. -/
def lineWords (share : List PlacedBeat) : Line :=
  share.foldl (fun l p => l.set (wordOfAddr p.addr).val p.data (wordOfAddr p.addr).isLt) zeroLine

/-- The decision on a claim on a bulk slot (R12). -/
def judgeBulk (own : Owner) (role : Role) (h : BurstHeader) (share : List PlacedBeat) (s : State) : Decision :=
  if role = .supervisor then
    if fullLine h share then own (lineWords share) s else refuse .partialLine s
  else refuse .notPermitted s

/-- The share of a write burst in a bulk slot: in READY a burst that touches the slot makes a claim, recorded with tag 0 (R4, R12).
DESIGN CHOICE (log 29): a burst touches every slot it places a beat in, so beats that address a bulk slot with every strobe clear,
and write nothing there, make a claim as well, refused PARTIAL, or NOT_PERMITTED for another role than SUPERVISOR. -/
def bulkStep (own : Owner) (role : Role) (slot : BulkSlot) (b : WriteBurst) (s : State) : State :=
  let share := shareOf s.pi.window (bulkNumber slot) b
  if s.pi.part = .ready ∧ share ≠ [] then
    let d := judgeBulk own role b.header share s
    recordPost (bulkNumber slot) 0 d.1 d.2
  else s

/-! ## Write bursts (R2, R3, R17) -/

/-- What the part does with the share of a write burst in the slot numbered `n`. A served slot and ordinary memory take no effect
(R3, R13). -/
def treatSlot (d : Deciders) (role : Role) (b : WriteBurst) (n : Nat) (s : State) : State :=
  match stagedOfNumber n with
  | some slot => if slot = .mailbox then mailboxStep d.judge role b s else stagedStep (d.staged slot) role slot b s
  | none =>
    match bulkOfNumber n with
    | some slot => bulkStep (d.bulk slot) role slot b s
    | none => s

/-- A write burst that reaches the part. Every beat goes downstream as it arrived, but for the held beats of a handler command that is
rewritten (R2, R10); the burst has the role its address was accepted with throughout (R5); its slots are treated one after another
(R8, R12), and memory's response goes back upstream once all of them have been (R17). Outside the region and in a bypassed part it
only passes (R1, R2). -/
def writeStep (d : Deciders) (b : WriteBurst) (s : State) : State :=
  let passed := passWrite b b.beats s
  if passesBy s.pi b.header then passed
  else (slotOrder s.pi.window b).foldl (fun t n => treatSlot d (roleOf s.pi b.header) b n t) passed

/-! ## Served slots (R13 to R16) -/

/-- How a served slot is answered: by the reader's role, the record and the state after the read. -/
abbrev Serve := Role → State → Line × State

/-- A served slot that is active: in UNCONFIGURED the status slot alone (R4, R13). -/
def servedActive (p : PathInterface) (z : ServedSlot) : Bool := !p.bypass && (p.part == .ready || z == .status)

/-- The active served slot at an address of the region, if there is one (R3, R13). -/
def servedAt (p : PathInterface) (a : Nat) : Option ServedSlot :=
  (servedOfNumber (slotOfAddr p.window a)).filter (servedActive p)

/-- Where a read burst falls: all in one active served slot, across the edge of one, or in none (R13, R15). -/
inductive ReadPlace where
  | memory
  | served (z : ServedSlot)
  | straddling
  deriving DecidableEq, Repr

/-- Where a read burst falls (R2, R13, R15). -/
def readPlace (p : PathInterface) (r : ReadBurst) : ReadPlace :=
  if passesBy p r.header then .memory
  else
    match (readAddrs r).map (servedAt p) with
    | [] => .memory
    | z :: rest =>
      if rest.all (· == z) then (match z with | some y => .served y | none => .memory) else .straddling

/-- A beat that returns the bytes it addresses of a word (R13, R16). -/
def readBeat (h : BurstHeader) (a : Nat) (w : Word) (response : Response) : ReadBeat :=
  { data := w &&& laneMask (beatLanes h a), lanes := beatLanes h a, response := response }

/-- Every beat of a burst answered from one record (R13). -/
def recordBeats (r : ReadBurst) (l : Line) : List ReadBeat :=
  (readAddrs r).map fun a => readBeat r.header a l[wordOfAddr a] .okay

/-- Beats `first` to `first + count − 1` of a read burst of the report window: each pops the head word for SUPERVISOR, and returns
a zero word when the FIFO is empty or the reader has another role (R16, R153). -/
def windowBeats (r : ReadBurst) (words : List Word) (first count : Nat) : List ReadBeat :=
  ((readAddrs r).drop first |>.take count).mapIdx fun i a => readBeat r.header a (words.getD i 0) .okay

/-- A read of the report window (R14, R16, R153). -/
def popWindow (r : ReadBurst) (first count : Nat) (s : State) : State :=
  let acting := roleOf s.pi r.header = .supervisor
  let beats := windowBeats r (if acting then s.ru.fifo else []) first count
  answerRead r.header beats { s with ru := { s.ru with fifo := if acting then s.ru.fifo.drop beats.length else s.ru.fifo } }

/-- A read refused because it straddles the edge of an active served slot: SLVERR and zero data on every beat (R15). -/
def refuseRead (r : ReadBurst) (s : State) : State :=
  answerRead r.header ((readAddrs r).map fun a => readBeat r.header a 0 .slverr) s

/-- A read burst that reaches the part (R2, R13 to R16). For the report window, `first` and `count` say which beats are formed. -/
def readStep (serve : ServedSlot → Serve) (first count : Nat) (r : ReadBurst) (s : State) : State :=
  match readPlace s.pi r with
  | .memory => passRead r s
  | .straddling => refuseRead r s
  | .served .reportWindow => popWindow r first count s
  | .served z =>
    let a := serve z (roleOf s.pi r.header) s
    answerRead r.header (recordBeats r a.1) a.2

end Sys2Proof.Machine
end

