-- ==== Sys2Proof/Machine/Defects.lean ====
section
/-! DEFINITION. The defect list store, URGENT (chapter 5), and the loading of the field correction table (chapter 6). -/

namespace Sys2Proof.Machine

/-! ## Defect entries (R72, R73) -/

/-- A slot whose part of the defect list is locked: its wafer is IN_CHAMBER or has its visited mark set (R72). -/
def locksRange (r : SlotRecord) : Bool := r.location == .inChamber || r.visited

/-- Index i is locked (R72). -/
def indexLocked (t : WaferTracker) (i : Nat) : Bool := allSlots.any fun c => inRange t c i && locksRange (slotOf t c)

/-- Die column and row in −16..15 (R72). -/
def dieOk (d : DefectEntry) : Bool := -16 ≤ d.column && d.column ≤ 15 && -16 ≤ d.row && d.row ≤ 15

/-- The decision on a defect entry for index i (R72, R73). -/
def decideDefectEntry (i : Fin 4096) : Owner := fun w s =>
  if s.wt.lot = .noLot ∨ s.wt.lot = .closing then refuse .wrongState s
  else if indexLocked s.wt i.val then refuse .listLocked s
  else if dieOk (defectOf w) then
    take { s with rs := { s.rs with defects := Sparse.insert s.rs.defects i.val (defectOf w) } }
  else refuse .outOfRange s

/-! ## URGENT (R78, R82, R83) -/

/-- The entry, with its tag, that the table holds for a defect index (R82). -/
def entryFor (r : RevisitScheduler) (i : Nat) : Option (Nat × RevisitEntry) :=
  r.table.find? fun p => p.2.defect == some i && p.2.kind != .calibration

/-- The lowest free tag not greater than n + 2, where n is the session's selected tally (R78). -/
def openTag (r : RevisitScheduler) : Option Nat :=
  (List.range (r.session.tallies.selected + 3)).find? fun tag => (Sparse.lookup r.table tag).isNone

/-- A tag appended to the lane, and the join handed to the revisit cycle (R80, R83, R105). -/
def joinLane (tag : Nat) (r : RevisitScheduler) : RevisitScheduler := recallOnJoin (laneTail tag r)

/-- A QUEUED REGULAR entry promoted: out of the queue, kind URGENT, at the lane's tail (R83). -/
def promote (tag : Nat) (r : RevisitScheduler) : RevisitScheduler :=
  let moved := modEntry tag (fun e => { e with kind := .urgent }) { r with queue := r.queue.filter (· ≠ tag) }
  joinLane tag moved

/-- A new URGENT entry at a tag, at the lane's tail, counted as urgent added (R83). -/
def addUrgent (tag i : Nat) (r : RevisitScheduler) : RevisitScheduler :=
  joinLane tag
    (modTallies (fun t => { t with urgentAdded := t.urgentAdded + 1 }) (putEntry tag (newEntry .urgent (some i)) r))

/-- Index i is in the chamber wafer's range and present (R82, check 2). -/
def inWafer (s : State) (i : Nat) : Bool :=
  match s.rs.session.chamberSlot with
  | some c => inRange s.wt c i && (Sparse.lookup s.rs.defects i).isSome
  | none => false

/-- Checks 4 and 5 of URGENT, and its effect (R82, R83). -/
def decideUrgentJoin (i : Nat) (found : Option Nat) (s : State) : Decision :=
  if laneFull s.rs then refuse .laneFull s
  else
    match found with
    | some tag => take { s with rs := promote tag s.rs }
    | none =>
      match openTag s.rs with
      | none => refuse .tableFull s
      | some tag => take { s with rs := addUrgent tag i s.rs }

/-- The decision on URGENT (R82). -/
def decideUrgent : Owner := fun w s =>
  let i := urgentIndex w
  if s.rs.session.state ≠ .aligning ∧ s.rs.session.state ≠ .active then refuse .wrongState s
  else if inWafer s i = false then refuse .notInWafer s
  else
    match entryFor s.rs i with
    | none => decideUrgentJoin i none s
    | some (tag, e) =>
      if e.state = .queued then
        if e.kind = .regular then decideUrgentJoin i (some tag) s else refuse .already s
      else if isSite e.state then refuse .already s
      else refuse .alreadyDone s

/-! ## The field correction table (R89 to R91) -/

/-- The chamber holds a wafer, or a session exists: the table is busy (R89, R90). -/
def tableBusy (s : State) : Bool := s.wt.chamber.isSome || s.rs.session.state != .none

/-- The decision on TABLE_LOAD (R89). -/
def decideTableLoad : Owner := fun w s =>
  if tableBusy s then refuse .tableBusy s
  else if loadStart w ≤ 1023 ∧ 1 ≤ loadCount w ∧ loadCount w ≤ 1024 ∧ loadStart w + loadCount w ≤ 1024 then
    take { s with rs := { s.rs with cursor := loadStart w, remaining := loadCount w } }
  else refuse .outOfRange s

/-- A stream entry that is invalid, or whose dx and dy lie in −500..500 (R90). -/
def streamEntryOk (x : Word) : Bool :=
  !streamValid x || (within (-500) 500 (streamOffsets x).1 && within (-500) 500 (streamOffsets x).2)

/-- One stream entry written to the table at an index: a valid entry takes dx and dy, an invalid one clears the mark (R91). -/
def writeCorrection (m : Sparse (Int × Int)) (i : Nat) (x : Word) : Sparse (Int × Int) :=
  if streamValid x then Sparse.insert m i (streamOffsets x) else Sparse.erase m i

/-- Stream entries written at the indices from `i` on, in order (R91). -/
def writeCorrections (m : Sparse (Int × Int)) (i : Nat) : List Word → Sparse (Int × Int)
  | [] => m
  | x :: rest => writeCorrections (writeCorrection m i x) (i + 1) rest

/-- The first m stream entries of a line, m the smaller of 8 and the remaining count (R90). -/
def streamEntries (w : Line) (remaining : Nat) : List Word := w.toList.take (min 8 remaining)

/-- A table stream line taken (R91). -/
def takeStream (w : Line) (r : RevisitScheduler) : RevisitScheduler :=
  let m := min 8 r.remaining
  { r with
    corrections := writeCorrections r.corrections r.cursor (streamEntries w r.remaining)
    cursor := r.cursor + m
    remaining := r.remaining - m }

/-- The decision on a table stream line (R90). -/
def decideStreamLine : Owner := fun w s =>
  if s.rs.remaining = 0 then refuse .wrongState s
  else if tableBusy s then refuse .tableBusy s
  else if (streamEntries w s.rs.remaining).all streamEntryOk then take { s with rs := takeStream w s.rs }
  else refuse .outOfRange s

end Sys2Proof.Machine
end

