-- ==== Sys2Proof/Machine/ZoneMap.lean ====
section
/-! DEFINITION. The zone map and the drift watch (chapter 9): session start, prediction, the fold of a measurement. -/

namespace Sys2Proof.Machine

/-! ## The grid (R136) -/

/-- The place of zone (column, row) in the zone map. -/
def zoneKey (z : Nat × Nat) : Nat := Config.zonesPerAxis * z.1 + z.2

/-- The neighbours of a zone that lie on the grid (R139). -/
def neighbourKeys (z : Nat × Nat) : List Nat :=
  (List.range 144).filter fun k =>
    k / 12 ≤ z.1 + 1 && z.1 ≤ k / 12 + 1 && k % 12 ≤ z.2 + 1 && z.2 ≤ k % 12 + 1 && k != zoneKey z

/-- The value of a zone, if it is TRACKING. -/
def trackingValue (z : Zone) : Option Int := if z.trust = .tracking then some z.value else none

/-- The values of the TRACKING zones among some keys. -/
def trackingAmong (zones : Sparse Zone) (keys : List Nat) : List Int :=
  keys.filterMap fun k => (Sparse.lookup zones k).bind trackingValue

/-- The values of all TRACKING zones. -/
def trackingAll (zones : Sparse Zone) : List Int := zones.filterMap fun p => trackingValue p.2

/-! ## Session start (R137, R138) -/

/-- The lowest focus of a recipe in ffu. -/
def floorFfu (r : FocusRecipe) : Int := 16 * r.floor

/-- The highest focus of a recipe in ffu. -/
def ceilingFfu (r : FocusRecipe) : Int := 16 * r.ceiling

/-- A value in ffu clamped into a recipe's focus range. -/
def clampFocus (r : FocusRecipe) (v : Int) : Int := clamp (floorFfu r) (ceilingFfu r) v

/-- A zone carried to the next session: SEEDED, clamped into the new range, count 0, mark clear (R137). -/
def carryZone (r : FocusRecipe) (z : Zone) : Zone :=
  { trust := .seeded, value := clampFocus r z.value, count := 0, measured := false }

/-- Session start at the Focus Engine (R137, R138). -/
def sessionStart (r : FocusRecipe) (f : FocusEngine) : FocusEngine :=
  { f with
    zones := if r.carry then Sparse.mapValues (carryZone r) f.zones else []
    stats := FocusStats.start }

/-! ## Prediction (R139, R140) -/

/-- The rounded mean of some values (R140). -/
def roundedMean (vs : List Int) : Int := roundDiv vs.sum vs.length

/-- The last two sources: the mean over every TRACKING zone, or the nominal focus (R139). -/
def predictFar (zones : Sparse Zone) (r : FocusRecipe) : Int × FocusSource :=
  if trackingAll zones = [] then (16 * r.nominal, .nominal) else (roundedMean (trackingAll zones), .wafer)

/-- The prediction for a zone with its source: the first available of the five (R139). -/
def predict (zones : Sparse Zone) (r : FocusRecipe) (z : Nat × Nat) : Int × FocusSource :=
  let own := Sparse.lookup zones (zoneKey z)
  let near := trackingAmong zones (neighbourKeys z)
  match own.bind trackingValue with
  | some v => (v, .zone)
  | none =>
    if near ≠ [] then (roundedMean near, .neighbours)
    else
      match own with
      | some seed => (seed.value, .seed)
      | none => predictFar zones r

/-- The step chosen, limited by the state of the entry's zone (R123). -/
def limitStep (zone : Option Zone) (chosen : FocusStep) : FocusStep :=
  match zone with
  | none => .wide
  | some z =>
    match z.trust, chosen with
    | .suspect, _ => .wide
    | .seeded, .wide => .wide
    | .seeded, _ => .narrow
    | .tracking, c => c

/-! ## The fold (R141 to R145) -/

/-- Whether a residual lies within the recipe's limits (R142). -/
def residualOk (r : FocusRecipe) (residual : Int) : Bool := r.residualLow ≤ residual && residual ≤ r.residualHigh

/-- The zone after a measurement is folded into it (R142, R143); its measured mark is set. -/
def foldZone (r : FocusRecipe) (measured residual : Int) (zone : Option Zone) : Zone :=
  match zone with
  | some z =>
    if z.trust = .tracking then
      if residualOk r residual then
        { trust := .tracking, value := z.value + roundDiv (measured - z.value) (2 ^ r.weightShift)
          count := holdUp Config.hold8 z.count, measured := true }
      else { z with trust := .suspect, measured := true }
    else { trust := .tracking, value := measured, count := 1, measured := true }
  | none => { trust := .tracking, value := measured, count := 1, measured := true }

/-- The residual tallies: counted for a TRACKING zone whose residual lies beyond a limit (R143). -/
def countResidual (r : FocusRecipe) (residual : Int) (zone : Option Zone) (t : FocusStats) : FocusStats :=
  if (zone.bind trackingValue).isSome then
    if r.residualHigh < residual then { t with residualHigh := holdUp Config.hold12 t.residualHigh }
    else if residual < r.residualLow then { t with residualLow := holdUp Config.hold12 t.residualLow }
    else t
  else t

/-- The accepted count counted up, and the extremes (R141, R144). -/
def countAccepted (measured : Int) (t : FocusStats) : FocusStats :=
  { t with
    accepted := holdUp Config.hold12 t.accepted
    minFocus := if measured < t.minFocus then measured else t.minFocus
    maxFocus := if t.maxFocus < measured then measured else t.maxFocus }

/-- The drift run fed a residual (R145). -/
def feedRun (residual : Int) (t : FocusStats) : FocusStats :=
  if residual = 0 then { t with runCount := 0, runSign := none }
  else
    let sign := if 0 < residual then RunSign.positive else RunSign.negative
    if t.runSign = some sign then { t with runCount := holdUp 15 t.runCount }
    else { t with runCount := 1, runSign := some sign }

/-- A measurement folded into a zone: the zone, its mark, the accepted count, the extremes and the drift run (R141). -/
def foldMeasurement (r : FocusRecipe) (z : Nat × Nat) (measured prediction : Int) (f : FocusEngine) : FocusEngine :=
  let residual := measured - prediction
  let zone := Sparse.lookup f.zones (zoneKey z)
  { f with
    zones := Sparse.insert f.zones (zoneKey z) (foldZone r measured residual zone)
    stats := feedRun residual (countAccepted measured (countResidual r residual zone f.stats)) }

/-- Whether the run has just reached the drift run limit D; a D of 0 turns the watch off (R145). -/
def driftReached (r : FocusRecipe) (t : FocusStats) : Bool := r.driftLimit != 0 && r.driftLimit ≤ t.runCount

/-- A TRACKING zone demoted by a drift event: SEEDED, F kept, count 0 (R146). -/
def demoteZone (z : Zone) : Zone := if z.trust = .tracking then { z with trust := .seeded, count := 0 } else z

/-- Steps 1 to 3 of a drift event at the Focus Engine (R146). -/
def driftEvent (f : FocusEngine) : FocusEngine :=
  { f with
    zones := Sparse.mapValues demoteZone f.zones
    stats := { f.stats with driftEvents := holdUp Config.hold8 f.stats.driftEvents, runCount := 0, runSign := none } }

/-! ## Session end (R148) -/

/-- Zones measured: the number of zones whose measured mark is set. -/
def zonesMeasured (zones : Sparse Zone) : Nat := (zones.filter fun p => p.2.measured).length

/-- Greatest zone count, 0 when every zone is EMPTY. -/
def greatestCount (zones : Sparse Zone) : Nat := (zones.map fun p => p.2.count).foldl max 0

end Sys2Proof.Machine
end

