-- ==== Sys2Proof/Machine/Records.lean ====
section
/-! DEFINITION. The records the part composes: the served records (R161, R162, R169) and the report FIFO records (R155 to R158,
R170). Every bit that no field occupies is zero (R165). -/

namespace Sys2Proof.Machine

/-! ## Target (R98, R169) -/

/-- The target directives (R98). -/
inductive TargetDirective where
  | idle
  | hold
  | move (sequence : BitVec 16) (tag : Nat) (kind : RevisitKind) (source : BitVec 32) (x y : Int) (uncorrected restarted : Bool)
  | stay (sequence : BitVec 16) (tag : Nat) (positionOff : Bool)
  | recall (sequence : BitVec 16)
  deriving DecidableEq, Repr

/-- The target record of a directive (R169). -/
def targetRecord : TargetDirective → Line
  | .idle => lineOf (put 0 8 1) 0 0 0 0 0 0 0
  | .hold => lineOf (put 0 8 2) 0 0 0 0 0 0 0
  | .move q tag kind source x y uncorrected restarted =>
    lineOf
      (put 0 8 3 ||| put 16 16 q.toNat ||| put 32 16 tag ||| put 48 8 kind.code
        ||| put 56 8 (flagByte { EntryFlags.clear with uncorrected := uncorrected, restarted := restarted }))
      (put 0 32 source.toNat) (putS 0 32 x ||| putS 32 32 y) 0 0 0 0 0
  | .stay q tag positionOff =>
    lineOf
      (put 0 8 4 ||| put 16 16 q.toNat ||| put 32 16 tag
        ||| put 56 8 (flagByte { EntryFlags.clear with positionOff := positionOff }))
      0 0 0 0 0 0 0
  | .recall q => lineOf (put 0 8 5 ||| put 16 16 q.toNat) 0 0 0 0 0 0 0

/-! ## Plan (R120, R169) -/

/-- The plan directives (R120). -/
inductive PlanDirective where
  | idle
  | sweep (sequence : BitVec 16) (tag : Nat) (kind : RevisitKind) (number : Nat) (z0 : Int) (dz n : Nat)
  | image (sequence : BitVec 16) (tag : Nat) (kind : RevisitKind) (focus : Int) (mode : Mode) (sweeps : Nat)
      (source : FocusSource) (flags : EntryFlags)
  deriving DecidableEq, Repr

/-- The plan record of a directive (R169). -/
def planRecord : PlanDirective → Line
  | .idle => lineOf (put 0 8 1) 0 0 0 0 0 0 0
  | .sweep q tag kind number z0 dz n =>
    lineOf (put 0 8 2 ||| put 16 16 q.toNat ||| put 32 16 tag ||| put 48 8 kind.code)
      (put 0 8 number ||| put 8 8 n ||| put 16 8 dz ||| putS 32 16 z0) 0 0 0 0 0 0
  | .image q tag kind focus mode sweeps source flags =>
    lineOf
      (put 0 8 3 ||| put 16 16 q.toNat ||| put 32 16 tag ||| put 48 8 kind.code
        ||| put 56 8 (flagByte { flags with restarted := false, uncorrected := false }))
      (putS 0 32 focus ||| put 32 8 mode.code ||| put 40 8 sweeps ||| put 48 8 source.code) 0 0 0 0 0 0

/-! ## Status (R162, R169) and event (R161, R169) -/

/-- The faulted slot, 0 where there is none (R162). -/
def faultedSlot : Channel → Nat
  | .halted c _ _ => slotNumber c
  | .idle | .outstanding _ => 0

/-- The HALTED sticky flag: it mirrors the handler channel (R163). -/
def haltedFlag : Channel → Bool
  | .halted _ _ _ => true
  | .idle | .outstanding _ => false

/-- One byte of the status record for a carrier slot: location 3:0, ID state 7:4. -/
def statusByte (r : SlotRecord) : Nat := r.location.code + 16 * r.idState.code

/-- Word 3 + j of the status record: the bytes of slots 8j + 1 to 8j + 8. -/
def statusSlots (t : WaferTracker) (j : Nat) : Word :=
  allSlots.foldl (fun w c => if c.val / 8 = j then w ||| put (8 * (c.val % 8)) 8 (statusByte (slotOf t c)) else w) 0

/-- Word 0 of the status record. -/
def statusWord0 (s : State) : Word :=
  put 0 4 s.pi.part.code ||| put 4 3 s.pi.window.toNat ||| put 8 4 s.wt.lot.code ||| put 12 4 s.wt.channel.code
    ||| put 16 8 (faultedSlot s.wt.channel) ||| put 24 4 s.rs.session.state.code ||| putBit 28 s.ru.reportLost
    ||| putBit 29 (haltedFlag s.wt.channel) ||| put 32 8 ((s.rs.session.chamberSlot.map slotNumber).getD 0)
    ||| put 40 4 (((siteEntry s.rs).map fun p => siteCode p.2.state).getD 0)
    ||| put 48 10 (((siteEntry s.rs).map Prod.fst).getD 0) ||| put 60 3 s.rs.lane.length

/-- The fields of a post record: slot 13:0, tag 23:16, outcome 31:24. -/
def postRecordBits (p : PostRecord) : Word := put 0 14 p.slot ||| put 16 8 p.tag.toNat ||| put 24 8 (outcomeCode p.outcome)

/-- The status record (R162). -/
def statusRecord (s : State) : Line :=
  lineOf (statusWord0 s)
    (put 0 32 s.wt.lotNumber.toNat ||| put 32 10 s.rs.queue.length ||| put 48 10 s.ru.fifo.length)
    (postRecordBits s.pi.lastPost ||| put 32 16 s.pi.refusals ||| put 48 16 s.ru.lost)
    (statusSlots s.wt 0) (statusSlots s.wt 1) (statusSlots s.wt 2) (statusSlots s.wt 3) 0

/-- The event record (R161). -/
def eventRecord (r : ReportUnit) : Line :=
  lineOf (put 0 12 r.pendingEvents.toNat)
    (postRecordBits r.lastRefusal ||| put 32 8 (reasonCode r.lastRewrite) ||| put 48 16 r.lost) 0 0 0 0 0 0

/-! ## The wafer report (R155, R156, R170) -/

/-- The two words of a read ID; zero bytes when it is absent. -/
def idWords (i : Option WaferId) : Word × Word :=
  match i with
  | none => (0, 0)
  | some v =>
    ((List.finRange 8).foldl (fun w j => w ||| put (8 * j.val) 8 (v[j.val]'(by omega)).toNat) 0,
     (List.finRange 4).foldl (fun w j => w ||| put (8 * j.val) 8 (v[8 + j.val]'(by omega)).toNat) 0)

/-- The (class, count) pairs of the classes whose count is non-zero, in increasing class order. -/
def classPairs (h : Vector Nat 64) : List (Nat × Nat) :=
  (List.finRange 64).filterMap fun c => if h[c] = 0 then none else some (c.val, h[c])

/-- One pair at place p of a class list word: class in the pair's bits 5:0, count in its bits 15:6. -/
def pairBits (p : Nat) (x : Nat × Nat) : Word := put (16 * p) 6 x.1 ||| put (16 * p + 6) 10 x.2

/-- The class list, four pairs to a word; the last word is filled out with zero pairs. -/
def pairWords : List (Nat × Nat) → List Word
  | [] => []
  | [a] => [pairBits 0 a]
  | [a, b] => [pairBits 0 a ||| pairBits 1 b]
  | [a, b, c] => [pairBits 0 a ||| pairBits 1 b ||| pairBits 2 c]
  | a :: b :: c :: d :: rest => (pairBits 0 a ||| pairBits 1 b ||| pairBits 2 c ||| pairBits 3 d) :: pairWords rest

/-- The three words of the wafer tallies. -/
def tallyWords (t : WaferTallies) : List Word :=
  [put 0 16 t.selected ||| put 16 16 t.skipped ||| put 32 16 t.overCap ||| put 48 16 t.absent,
   put 0 9 t.classified ||| put 9 9 t.notFound ||| put 18 9 t.failed ||| put 27 9 t.notReviewed ||| put 36 2 t.urgentAdded
     ||| put 48 16 t.restarts,
   put 0 9 t.failedBy.arrivalTimeout ||| put 9 9 t.failedBy.focusTimeout ||| put 18 9 t.failedBy.imageTimeout
     ||| put 27 9 t.failedBy.offWafer ||| put 36 9 t.failedBy.noMode ||| put 45 9 t.failedBy.imageFault]

/-- The focus summary word. -/
def focusWord (t : FocusStats) (zones : Sparse Zone) : Word :=
  put 0 12 t.accepted ||| put 12 12 t.residualHigh ||| put 24 12 t.residualLow ||| put 36 8 t.driftEvents
    ||| put 44 8 (zonesMeasured zones) ||| put 52 8 (greatestCount zones)

/-- The flags word. -/
def reportFlags (slot : SlotRecord) (aligned : Bool) (t : FocusStats) : Word :=
  putBit 0 slot.rangeFault ||| putBit 1 aligned ||| put 4 4 slot.idState.code ||| put 8 8 t.calRun
    ||| put 16 8 t.calSuppressed ||| put 24 8 t.calUnmeasured

/-- The extremes word, present only when the accepted count is non-zero. DEDUCED (log 30): R155, R156 and R170 leave the word out of
a report whose accepted count is 0, against R165's example, which has the part write zero in it. -/
def extremesWords (t : FocusStats) : List Word :=
  if t.accepted = 0 then [] else [putS 0 32 t.minFocus ||| putS 32 32 t.maxFocus]

/-- The length of a wafer report: 8 + e + ceil(m / 4) (R156). -/
def waferReportLength (t : FocusStats) (m : Nat) : Nat := 8 + (if t.accepted = 0 then 0 else 1) + (m + 3) / 4

/-- The wafer report for the wafer of a slot (R155, R170). -/
def waferReport (c : CarrierSlot) (slot : SlotRecord) (n : Session) (f : FocusEngine) : List Word :=
  let pairs := classPairs n.histogram
  [put 0 8 1 ||| put 8 8 (waferReportLength f.stats pairs.length) ||| put 16 8 (slotNumber c),
   (idWords slot.readId).1, (idWords slot.readId).2]
    ++ tallyWords n.tallies ++ [focusWord f.stats f.zones, reportFlags slot n.aligned f.stats]
    ++ extremesWords f.stats ++ pairWords pairs

/-- The lot report (R157, R170). -/
def lotReport (lotNumber : BitVec 32) (t : LotTallies) (waferReportsLost : Nat) : List Word :=
  [put 0 8 2 ||| put 8 8 4 ||| put 32 32 lotNumber.toNat,
   put 0 8 t.present ||| put 8 8 t.reviewed ||| put 16 8 t.notVisited ||| put 24 8 waferReportsLost,
   put 0 16 t.faults, put 0 16 t.mismatches]

/-- The handling note (R158, R170). -/
def handlingNote (c : CarrierSlot) (v : Verb) (p : Place) (fault : Nat) (tag : BitVec 8) : List Word :=
  [put 0 8 3 ||| put 8 8 2 ||| put 16 8 (slotNumber c) ||| put 24 8 v.code ||| put 32 8 p.code,
   put 0 16 fault ||| put 16 8 tag.toNat]

end Sys2Proof.Machine
end

