-- ==== Sys2Proof/Machine/Coordinates.lean ====
section
/-! DEFINITION. Site coordinates (chapter 6): the stage target of a dispatch, the off-wafer test and the zone of a site. -/

namespace Sys2Proof.Machine

/-- The field correction index of a die: (c + 16) × 32 + (r + 16) (R88). -/
def correctionIndex (column row : Int) : Nat := ((column + 16) * 32 + (row + 16)).toNat

/-- The stage target of a defect under a geometry recipe, alignment offsets and its die's correction, if valid (R94). -/
def defectTarget (g : GeometryRecipe) (offsetX offsetY : Int) (correction : Option (Int × Int)) (d : DefectEntry) : Int × Int :=
  (offsetX + g.originX + d.column * g.pitchX + d.inX + (correction.getD (0, 0)).1,
   offsetY + g.originY + d.row * g.pitchY + d.inY + (correction.getD (0, 0)).2)

/-- Whether a target is off the wafer: x² + y² > R² (R96). -/
def offWafer (g : GeometryRecipe) (t : Int × Int) : Bool := (g.radius : Int) * g.radius < t.1 * t.1 + t.2 * t.2

/-- The cell of the zone grid on one axis: floor((v + 150000) / 25000) clamped into 0..11 (R97). -/
def zoneAxis (v : Int) : Nat := (clamp 0 11 ((v + 150000) / Config.zoneWidth)).toNat

/-- The zone (column, row) of a stage target (R97). -/
def zoneOf (t : Int × Int) : Nat × Nat := (zoneAxis t.1, zoneAxis t.2)

/-- The correction of a defect's die, if its table entry is valid (R88, R94). -/
def correctionOf (r : RevisitScheduler) (d : DefectEntry) : Option (Int × Int) :=
  Sparse.lookup r.corrections (correctionIndex d.column d.row)

/-- The stage target of a candidate and whether it is UNCORRECTED: computed for a REGULAR or URGENT entry (R94), the calibration
site as given for the calibration entry (R95). -/
def targetFor (w : WaferRecipe) (r : RevisitScheduler) (e : RevisitEntry) : Option ((Int × Int) × Bool) :=
  match e.kind with
  | .calibration => some ((w.focus.calX, w.focus.calY), false)
  | .regular | .urgent =>
    (e.defect.bind (Sparse.lookup r.defects)).map fun d =>
      (defectTarget w.geometry r.session.offsetX r.session.offsetY (correctionOf r d) d, (correctionOf r d).isNone)

end Sys2Proof.Machine
end

