-- ==== Sys2Proof/Machine/Revisit.lean ====
section
/-! DEFINITION. The revisit cycle (chapter 7): the target slot and dispatch, arrival, recall, the step timer's expiries, results. -/

namespace Sys2Proof.Machine

/-! ## The target slot (R98, R99) -/

/-- The source number served for an entry; 0 for the calibration entry (R98). -/
def sourceOf (r : RevisitScheduler) (e : RevisitEntry) : BitVec 32 :=
  ((e.defect.bind (Sparse.lookup r.defects)).map fun d => d.source).getD 0

/-- The directive for the site entry (R98, R102). -/
def siteDirective (r : RevisitScheduler) (tag : Nat) (e : RevisitEntry) : TargetDirective :=
  match e.state with
  | .dispatched =>
    .move (e.sequence.getD 0) tag e.kind (sourceOf r e) (e.target.getD (0, 0)).1 (e.target.getD (0, 0)).2
      e.flags.uncorrected e.flags.restarted
  | .recalling => .recall (e.sequence.getD 0)
  | .arrived | .focusing | .focused => .stay (e.sequence.getD 0) tag e.flags.positionOff
  | .queued | .retired | .failed | .notReviewed => .idle

/-- The directive a peek of the target slot is served: the table of R98, with IDLE in ACTIVE without a site entry (R99). -/
def targetDirective (r : RevisitScheduler) : TargetDirective :=
  match r.session.state with
  | .none => .idle
  | .aligning | .exiting => .hold
  | .active | .ending =>
    match siteEntry r with
    | some (tag, e) => siteDirective r tag e
    | none => .idle

/-! ## Dispatch (R100, R101) -/

/-- The next candidate: the head of the lane, or of the regular queue when the lane is empty, removed from its list (R100). -/
def takeCandidate (r : RevisitScheduler) : Option (Nat × RevisitScheduler) :=
  match r.lane with
  | tag :: rest => some (tag, { r with lane := rest })
  | [] =>
    match r.queue with
    | tag :: rest => some (tag, { r with queue := rest })
    | [] => none

/-- The entry as its dispatch leaves it (R94, R95, R101). -/
def dispatchedEntry (sequence : BitVec 16) (target : Int × Int) (uncorrected : Bool) (e : RevisitEntry) : RevisitEntry :=
  { e with
    sequence := some sequence, target := some target, state := .dispatched
    flags := { e.flags with uncorrected := uncorrected } }

/-- The focus context a dispatch creates (R119). -/
def newContext (tag : Nat) (kind : RevisitKind) (zone : Nat × Nat) : FocusContext :=
  { tag := tag, kind := kind, zone := zone, sequence := none, step := none, prediction := none, plan := none,
    sweepNumber := none, image := none }

/-- The dispatch of a candidate whose target passes the off-wafer test (R101). -/
def dispatchEntry (tag : Nat) (kind : RevisitKind) (target : Int × Int) (uncorrected : Bool) (s : State) : State :=
  let sequence := s.rs.session.sequence + 1
  { s with
    rs := startTimer s.pi.setup.arrivalLimit
      (modEntry tag (dispatchedEntry sequence target uncorrected)
        { s.rs with session := { s.rs.session with sequence := sequence } })
    fe := { s.fe with context := some (newContext tag kind (zoneOf target)) } }

/-- Candidates taken in turn until one is dispatched or both lists are empty; one that is off the wafer fails at once (R96, R100).
A tag without an entry, or an entry without a defect, does not arise; it would be passed over (log 13). -/
def dispatchLoop (w : WaferRecipe) : Nat → State → State
  | 0, s => s
  | fuel + 1, s =>
    match takeCandidate s.rs with
    | none => s
    | some (tag, r) =>
      match Sparse.lookup r.table tag with
      | none => dispatchLoop w fuel { s with rs := r }
      | some e =>
        match targetFor w r e with
        | none => dispatchLoop w fuel { s with rs := r }
        | some (target, uncorrected) =>
          if offWafer w.geometry target then dispatchLoop w fuel (failEntry tag .offWafer { s with rs := r })
          else dispatchEntry tag e.kind target uncorrected { s with rs := r }

/-- A dispatch, in ACTIVE with the site free (R100). Every session has a wafer recipe (R61; log 13). -/
def dispatchNext (s : State) : State :=
  match s.rs.session.recipe with
  | none => s
  | some w => dispatchLoop w (s.rs.lane.length + s.rs.queue.length) s

/-- The state after an acting read of the target slot: a dispatch in ACTIVE with the site free, a recall served in ACTIVE with a
RECALLING entry, otherwise no change (R98). -/
def actOnTarget (s : State) : State :=
  if s.rs.session.state = .active then
    match siteEntry s.rs with
    | none => dispatchNext s
    | some (tag, e) => if e.state = .recalling then makeRecall tag s else s
  else s

/-- The directive an acting read is served: RECALL for a recall it serves; otherwise the directive of the state it leaves (R98). -/
def actingDirective (s : State) : TargetDirective :=
  match siteEntry s.rs with
  | none => targetDirective (actOnTarget s).rs
  | some _ => targetDirective s.rs

/-- The target slot's answer (R98, R99): an acting read by STAGE, a peek by any other role. -/
def serveTarget : Serve := fun role s =>
  if role = .stage then (targetRecord (actingDirective s), actOnTarget s) else (targetRecord (targetDirective s.rs), s)

/-! ## Arrival (R103, R104) -/

/-- The position check: off by more than the tolerance on an axis, or UNSETTLED (R104). -/
def positionOff (tolerance : Nat) (target : Int × Int) (x y : Int) (settled : Bool) : Bool :=
  (tolerance : Int) < |x - target.1| || (tolerance : Int) < |y - target.2| || !settled

/-- The position tolerance of the latched geometry recipe. -/
def toleranceOf (r : RevisitScheduler) : Nat := (r.session.recipe.map fun w => w.geometry.tolerance).getD 0

/-- An arrival taken for the site entry (R104). -/
def arriveEntry (tag : Nat) (e : RevisitEntry) (x y : Int) (settled : Bool) (s : State) : State :=
  let off := positionOff (toleranceOf s.rs) (e.target.getD (0, 0)) x y settled
  { s with
    rs := startTimer s.pi.setup.focusLimit
      (modEntry tag
        (fun e => { e with state := .arrived, flags := { e.flags with positionOff := e.flags.positionOff || off } }) s.rs)
    fe := { s.fe with context := s.fe.context.map fun c => { c with sequence := e.sequence } } }

/-- The decision on an arrival record (R103). -/
def decideArrival : Owner := fun w s =>
  match siteEntry s.rs with
  | none => refuse .stale s
  | some (tag, e) =>
    if (e.state = .dispatched ∨ e.state = .recalling) ∧ e.sequence = some (recordSequence w) then
      match arrivalSettled w with
      | none => refuse .outOfRange s
      | some settled => take (arriveEntry tag e (arrivalX w) (arrivalY w) settled s)
    else refuse .stale s

/-! ## The step timer's expiries (R109 to R111) -/

/-- An entry put back at the head of its own list (R79, R80, R109). -/
def returnTag (kind : RevisitKind) (tag : Nat) (r : RevisitScheduler) : RevisitScheduler :=
  if kind = .regular then queueHead tag r else laneHead tag r

/-- An arrival step expiry of the site entry (R109, R66). -/
def expireArrival (tag : Nat) (e : RevisitEntry) (s : State) : State :=
  let attempts := e.attempts + 1
  let counted := { s with rs := modEntry tag (fun e => { e with attempts := attempts }) s.rs }
  if attempts < s.pi.setup.maxAttempts then
    if s.rs.session.state = .ending then
      let left := leaveSite tag (fun e => { e with state := .notReviewed }) counted
      { left with rs := modTallies (countNotReviewed e.kind 1) left.rs }
    else
      let left := leaveSite tag (fun e => { e with state := .queued }) counted
      { left with rs := returnTag e.kind tag left.rs }
  else failEntry tag .arrivalTimeout counted

/-- What the step timer's expiry does, by the state of the site entry (R109 to R111). -/
def expireSite (tag : Nat) (e : RevisitEntry) (s : State) : State :=
  match e.state with
  | .dispatched => expireArrival tag e s
  | .recalling => makeRecall tag s
  | .arrived | .focusing => failEntry tag .focusTimeout s
  | .focused => failEntry tag .imageTimeout s
  | .queued | .retired | .failed | .notReviewed => s

/-- The step timer expires (R108). -/
def expireTimer (s : State) : State :=
  match siteEntry s.rs with
  | some (tag, e) => expireSite tag e s
  | none => s

/-- An expiry command: the running timer expires with the site entry in one of the given states. Nothing expires when the timer is
stopped or the site entry is in another state (log 3). -/
def expireIn (states : List RevisitState) (s : State) : State :=
  match siteEntry s.rs with
  | some (tag, e) => if timerRunning s.rs && states.contains e.state then expireSite tag e s else s
  | none => s

/-- One tick of the 1 ms timebase (R108; log 2): the first tick after a start is not counted, and the timer expires when the elapsed
time reaches its limit. -/
def tick (s : State) : State :=
  match s.rs.timer with
  | .stopped => s
  | .running limit elapsed true => { s with rs := { s.rs with timer := .running limit elapsed false } }
  | .running limit elapsed false =>
    if elapsed + 1 < limit then { s with rs := { s.rs with timer := .running limit (elapsed + 1) false } }
    else expireTimer s

/-! ## Results (R112 to R114) -/

/-- The wafer tallies and the histogram after a retirement by a result (R113). -/
def countRetired (kind : RevisitKind) (o : ResultOutcome) (c : Nat) (r : RevisitScheduler) : RevisitScheduler :=
  if kind = .calibration then r
  else
    match o with
    | .classified =>
      { r with
        session := { r.session with
          tallies := { r.session.tallies with classified := r.session.tallies.classified + 1 }
          histogram := countClass c r.session.histogram } }
    | .notFound => modTallies (fun t => { t with notFound := t.notFound + 1 }) r
    | .imageFault => r

/-- A result taken with CLASSIFIED or NOT_FOUND retires the entry (R113). -/
def retireByResult (tag : Nat) (kind : RevisitKind) (o : ResultOutcome) (c : Nat) (s : State) : State :=
  let left := retireEntry tag s
  { left with rs := countRetired kind o c left.rs, fe := countIfCalibration kind left.fe }

/-- A result taken: IMAGE_FAULT fails the entry, the others retire it (R112). -/
def takeResult (tag : Nat) (kind : RevisitKind) (o : ResultOutcome) (c : Nat) (s : State) : State :=
  match o with
  | .imageFault => failEntry tag .imageFault s
  | .classified | .notFound => retireByResult tag kind o c s

/-- The decision on a result record (R112). -/
def decideResult : Owner := fun w s =>
  match siteEntry s.rs with
  | none => refuse .stale s
  | some (tag, e) =>
    if e.state = .focused ∧ e.sequence = some (recordSequence w) then
      match resultOutcome w with
      | none => refuse .outOfRange s
      | some o =>
        if o = .classified ∧ 63 < resultClass w then refuse .outOfRange s
        else take (takeResult tag e.kind o (resultClass w) s)
    else refuse .stale s

end Sys2Proof.Machine
end

