-- ==== Sys2Proof/Machine/Focus.lean ====
section
/-! DEFINITION. Focus plans and sweep evaluation (chapter 8), the drift event and its calibration request (R84, R85, R146). -/

namespace Sys2Proof.Machine

/-! ## Plans (R125) -/

/-- A plan about a centre with n samples at step dz, shifted into the focus range (R125). -/
def makePlan (r : FocusRecipe) (centre : Int) (n dz : Nat) : SweepPlan :=
  let span : Int := ((n : Int) - 1) * dz
  let first := centre - (dz : Int) * (((n : Int) - 1) / 2)
  let raised := if first < r.floor then r.floor else first
  let shifted := if r.ceiling < raised + span then r.ceiling - span else raised
  { z0 := shifted, dz := dz, n := n, centre := centre }

/-- A WIDE plan. -/
def widePlan (r : FocusRecipe) (centre : Int) : SweepPlan := makePlan r centre r.wideN r.wideDz

/-- A NARROW plan. -/
def narrowPlan (r : FocusRecipe) (centre : Int) : SweepPlan := makePlan r centre r.narrowN r.narrowDz

/-! ## Becoming FOCUSED (R132) -/

/-- Mode resolution: the first mode in priority order that is allowed and offered (R132). -/
def resolveMode (allowed capability : ModeSet) : Option Mode :=
  modesInOrder.find? fun m => hasMode allowed m && hasMode capability m

/-- The focus before the clamp: z plus the mode's offset (R132). -/
def offsetFocus (g : GeometryRecipe) (m : Mode) (z : Int) : Int := z + 16 * g.offsets[m.index]

/-- The site entry becomes FOCUSED at z, with the flags of the step that led here, or fails NO_MODE (R132). An entry at its focus
step always has a context and a wafer recipe (log 13). -/
def becomeFocused (tag : Nat) (z : Int) (flags : EntryFlags → EntryFlags) (s : State) : State :=
  match s.rs.session.recipe, s.fe.context with
  | some w, some c =>
    match resolveMode w.geometry.modes s.fe.capability with
    | none => failEntry tag .noMode s
    | some m =>
      let wanted := offsetFocus w.geometry m z
      let served := clampFocus w.focus wanted
      { s with
        rs := startTimer s.pi.setup.imageLimit
          (modEntry tag
            (fun e =>
              { e with
                state := .focused
                flags := { flags e.flags with clamped := (flags e.flags).clamped || served != wanted } }) s.rs)
        fe := { s.fe with context := some { c with image := some (m, served) } } }
  | _, _ => s

/-! ## The step decision (R122 to R124) -/

/-- The cadence entry at the session's cadence index (R122). Entries below the cadence length are defined codes (R59); an undefined
one, which does not arise, would read WIDE (log 13). -/
def cadenceStep (m : SamplingRecipe) (i : Nat) : FocusStep :=
  ((m.cadence.toList[i]?).bind fun code => stepOfCode code.toNat).getD .wide

/-- The step chosen from the entry's kind (R122). -/
def chooseStep (m : SamplingRecipe) (i : Nat) (kind : RevisitKind) : FocusStep :=
  match kind with
  | .regular => cadenceStep m i
  | .urgent => .narrow
  | .calibration => .wide

/-- The cadence index after a step decision: advanced modulo L by a REGULAR one only (R122). -/
def nextCadence (m : SamplingRecipe) (i : Nat) (kind : RevisitKind) : Nat :=
  if kind = .regular then (i + 1) % m.cadenceLength else i

/-- The session with its cadence index replaced. -/
def setCadence (i : Nat) (r : RevisitScheduler) : RevisitScheduler :=
  { r with session := { r.session with cadenceIndex := i } }

/-- The step decision completed with a sweep: plan and sweep number 1, the entry FOCUSING with sweeps 1, the timer restarted with
the focus limit (R124). -/
def beginSweep (tag : Nat) (plan : SweepPlan) (c : FocusContext) (s : State) : State :=
  { s with
    rs := startTimer s.pi.setup.focusLimit (modEntry tag (fun e => { e with state := .focusing, sweeps := 1 }) s.rs)
    fe := { s.fe with context := some { c with plan := some plan, sweepNumber := some 1 } } }

/-- The step decision for the ARRIVED site entry (R122 to R124). -/
def decideStep (tag : Nat) (e : RevisitEntry) (s : State) : State :=
  match s.rs.session.recipe, s.fe.context with
  | some w, some c =>
    let chosen := chooseStep w.sampling s.rs.session.cadenceIndex e.kind
    let step := limitStep (Sparse.lookup s.fe.zones (zoneKey c.zone)) chosen
    let p := predict s.fe.zones w.focus c.zone
    let c' := { c with step := some step, prediction := some p }
    let advanced :=
      { s with
        rs := setCadence (nextCadence w.sampling s.rs.session.cadenceIndex e.kind) s.rs
        fe := { s.fe with context := some c' } }
    match step with
    | .predict => becomeFocused tag p.1 id advanced
    | .narrow => beginSweep tag (narrowPlan w.focus (roundDiv p.1 16)) c' advanced
    | .wide => beginSweep tag (widePlan w.focus (roundDiv p.1 16)) c' advanced
  | _, _ => s

/-! ## The plan slot (R120, R121) -/

/-- The directive a peek of the plan slot is served; IDLE while the entry is ARRIVED (R120, R121). -/
def planDirective (s : State) : PlanDirective :=
  match siteEntry s.rs, s.fe.context with
  | some (tag, e), some c =>
    match e.state, c.plan, c.sweepNumber, c.image, c.prediction with
    | .focusing, some p, some number, _, _ => .sweep (e.sequence.getD 0) tag e.kind number p.z0 p.dz p.n
    | .focused, _, _, some (mode, focus), some (_, source) =>
      .image (e.sequence.getD 0) tag e.kind focus mode e.sweeps source e.flags
    | _, _, _, _, _ => .idle
  | _, _ => .idle

/-- The state after an acting read of the plan slot: with the site entry ARRIVED the step is decided (R120). -/
def actOnPlan (s : State) : State :=
  match siteEntry s.rs with
  | some (tag, e) => if e.state = .arrived then decideStep tag e s else s
  | none => s

/-- The plan slot's answer: an acting read by COLUMN, a peek by any other role (R120, R121). -/
def servePlan : Serve := fun role s =>
  if role = .column then (planRecord (planDirective (actOnPlan s)), actOnPlan s) else (planRecord (planDirective s), s)

/-! ## Sweep evaluation (R127) -/

/-- The first index of the greatest score, ties to the lowest index (R127). -/
def peakIndex (scores : List Nat) : Nat := scores.findIdx fun x => scores.all (· ≤ x)

/-- What a sweep gives (R127): FLAT, an edge at sample k, or OK with the measured focus before its clamp. -/
inductive SweepOutcome where
  | flat
  | edge (k : Nat)
  | ok (z : Int)
  deriving DecidableEq, Repr

/-- The interpolated peak in ffu: 16 × (z0 + k × dz) + f, f = 8 × dz × (a − b) / (a + b) rounded (R127). -/
def interpolate (p : SweepPlan) (scores : List Nat) (k : Nat) : Int :=
  let top : Int := scores.getD k 0
  let a := top - scores.getD (k - 1) 0
  let b := top - scores.getD (k + 1) 0
  16 * (p.z0 + k * p.dz) + roundDiv (8 * p.dz * (a - b)) (a + b)

/-- The outcome of a sweep (R127). -/
def evaluateSweep (r : FocusRecipe) (p : SweepPlan) (scores : List Nat) : SweepOutcome :=
  let k := peakIndex scores
  if scores.getD k 0 < r.contrastFloor then .flat
  else if k = 0 ∨ k + 1 = p.n then .edge k
  else .ok (interpolate p scores k)

/-! ## Acting on an outcome (R128, R129, R146) -/

/-- The Revisit Scheduler's decision on a calibration request: whether it is admitted (R84). -/
def calibrationAdmitted (r : RevisitScheduler) : Bool :=
  r.session.state == .active && !laneFull r
    && !((Sparse.lookup r.table Config.calibrationTag).map fun e => isSite e.state).getD false

/-- A calibration admitted: tag 511 becomes a calibration entry at the head of the lane, and the join is handed to the revisit cycle
(R85, R105). -/
def admitCalibration (r : RevisitScheduler) : RevisitScheduler :=
  recallOnJoin (laneHead Config.calibrationTag (putEntry Config.calibrationTag (newEntry .calibration none) r))

/-- A suppressed request counted (R84, R146). -/
def countSuppressed (f : FocusEngine) : FocusEngine :=
  modStats (fun t => { t with calSuppressed := holdUp Config.hold8 t.calSuppressed }) f

/-- A calibration request decided (R84). -/
def requestCalibration (s : State) : State :=
  if calibrationAdmitted s.rs then { s with rs := admitCalibration s.rs } else { s with fe := countSuppressed s.fe }

/-- A drift event (R146). -/
def drift (s : State) : State :=
  requestCalibration { s with fe := driftEvent s.fe, ru := raiseIn s.pi.setup.enable .drift s.ru }

/-- The fold of a measured focus, and the drift event it may make (R141). -/
def foldSweep (r : FocusRecipe) (c : FocusContext) (measured : Int) (s : State) : State :=
  let prediction := (c.prediction.map Prod.fst).getD 0
  let folded := { s with fe := foldMeasurement r c.zone measured prediction s.fe }
  if driftReached r folded.fe.stats then drift folded else folded

/-- Calibrations run counted up (R128, R130). -/
def countCalRun (f : FocusEngine) : FocusEngine := modStats (fun t => { t with calRun := holdUp Config.hold8 t.calRun }) f

/-- The CLAMPED flag set at a tag when a clamp changed the focus (R127). -/
def markClamped (tag : Nat) (changed : Bool) (s : State) : State :=
  { s with rs := modEntry tag (fun e => { e with flags := { e.flags with clamped := e.flags.clamped || changed } }) s.rs }

/-- An OK outcome (R128): the fold, then FOCUSED at the measured focus, or for a calibration its retirement. -/
def actOnOk (w : WaferRecipe) (c : FocusContext) (tag : Nat) (kind : RevisitKind) (raw : Int) (s : State) : State :=
  let measured := clampFocus w.focus raw
  let folded := foldSweep w.focus c measured (markClamped tag (measured != raw) s)
  if kind = .calibration then retireEntry tag { folded with fe := countCalRun folded.fe }
  else becomeFocused tag measured id folded

/-- A re-sweep: the new plan and centre, the sweep number and the entry's sweeps counted up, the timer running on (R129). -/
def reSweep (plan : SweepPlan) (c : FocusContext) (tag : Nat) (s : State) : State :=
  { s with
    rs := modEntry tag (fun e => { e with sweeps := e.sweeps + 1 }) s.rs
    fe := { s.fe with context := some { c with plan := some plan, sweepNumber := c.sweepNumber.map (· + 1) } } }

/-- The sweeps are exhausted: FOCUSED at P with FOCUS_FALLBACK, or for a calibration its retirement without a measurement (R129). -/
def fallBack (c : FocusContext) (tag : Nat) (kind : RevisitKind) (s : State) : State :=
  if kind = .calibration then retireEntry tag { s with fe := countUnmeasured s.fe }
  else becomeFocused tag ((c.prediction.map Prod.fst).getD 0) (fun f => { f with focusFallback := true }) s

/-- A re-sweep about a centre if a sweep is left, otherwise the fallback: steps 2 and 3 of R129. -/
def sweepAgain (w : WaferRecipe) (centre : Int) (c : FocusContext) (tag : Nat) (e : RevisitEntry) (s : State) : State :=
  if e.sweeps < w.focus.maxSweeps then reSweep (widePlan w.focus centre) c tag s else fallBack c tag e.kind s

/-- The plan a re-sweep about an edge sample would use is the plan just swept: the sweep is pinned (R129). -/
def pinned (r : FocusRecipe) (edge : Int) (p : SweepPlan) : Bool :=
  let again := widePlan r edge
  again.z0 == p.z0 && again.dz == p.dz && again.n == p.n

/-- An edge outcome at sample k (R129). -/
def actOnEdge (w : WaferRecipe) (c : FocusContext) (p : SweepPlan) (tag : Nat) (e : RevisitEntry) (k : Nat) (s : State) : State :=
  let edge := p.z0 + k * p.dz
  if pinned w.focus edge p then becomeFocused tag (16 * edge) (fun f => { f with focusAtLimit := true }) s
  else sweepAgain w edge c tag e s

/-- The outcome of a sweep acted on (R128, R129). -/
def actOnSweep (w : WaferRecipe) (c : FocusContext) (p : SweepPlan) (tag : Nat) (e : RevisitEntry) (scores : List Nat)
    (s : State) : State :=
  match evaluateSweep w.focus p scores with
  | .flat => sweepAgain w p.centre c tag e s
  | .edge k => actOnEdge w c p tag e k s
  | .ok raw => actOnOk w c tag e.kind raw s

/-- The decision on a sweep record (R126). The context of a FOCUSING entry always has a plan, and its session a wafer recipe; a
record that met neither would be STALE (log 13). -/
def decideSweep : Owner := fun w s =>
  match siteEntry s.rs, s.fe.context, s.rs.session.recipe with
  | some (tag, e), some c, some recipe =>
    if e.state = .focusing ∧ e.sequence = some (recordSequence w) ∧ c.sweepNumber = some (sweepNumberOf w) then
      match c.plan with
      | none => refuse .stale s
      | some p =>
        if sweepCount w = p.n then take (actOnSweep recipe c p tag e (sweepScores w p.n) s) else refuse .outOfRange s
    else refuse .stale s
  | _, _, _ => refuse .stale s

/-- The decision on a column capability record: always taken (R131). -/
def decideCapability : Owner := fun w s => take { s with fe := { s.fe with capability := capabilityModes w } }

end Sys2Proof.Machine
end

