-- ==== Sys2Proof/Machine/Selection.lean ====
section
/-! DEFINITION. The sampling filters (R74, R75) and selection at chamber entry (R76). -/

namespace Sys2Proof.Machine

/-- The bits of an attribute nibble that differ from the pattern and are in the mask (R74). -/
def nibbleTest (value pattern mask : BitVec 4) : BitVec 4 := (value ^^^ pattern) &&& mask

/-- An enabled filter's result: the test gives zero for all four nibbles (R74). -/
def filterMatches (f : SamplingFilter) (a : Nibbles) : Bool :=
  nibbleTest a.cls f.pattern.cls f.mask.cls == 0 && nibbleTest a.size f.pattern.size f.mask.size == 0
    && nibbleTest a.region f.pattern.region f.mask.region == 0 && nibbleTest a.pass f.pattern.pass f.mask.pass == 0

/-- A filter's result; a disabled filter's is TRUE (R75). -/
def filterResult (f : SamplingFilter) (a : Nibbles) : Bool := !f.enable || filterMatches f a

/-- The logic field's combination of two results (R75). -/
def combine (l : FilterLogic) (x y : Bool) : Bool :=
  match l with
  | .or => x || y
  | .and => x && y
  | .nor => !(x || y)
  | .nand => !(x && y)

/-- The verdict on a present entry; TRUE whatever the logic when both filters are disabled (R75). -/
def verdict (r : SamplingRecipe) (a : Nibbles) : Bool :=
  if !r.filter1.enable && !r.filter2.enable then true
  else combine r.logic (filterResult r.filter1 a) (filterResult r.filter2 a)

/-- Selection's step for one index (R76). -/
def selectIndex (recipe : SamplingRecipe) (r : RevisitScheduler) (i : Nat) : RevisitScheduler :=
  let selected := r.session.tallies.selected
  match Sparse.lookup r.defects i with
  | none => modTallies (fun t => { t with absent := t.absent + 1 }) r
  | some d =>
    if verdict recipe d.attributes = false then modTallies (fun t => { t with skipped := t.skipped + 1 }) r
    else if recipe.cap ≤ selected then modTallies (fun t => { t with overCap := t.overCap + 1 }) r
    else
      let entered := putEntry selected (newEntry .regular (some i)) r
      modTallies (fun t => { t with selected := t.selected + 1 }) { entered with queue := entered.queue ++ [selected] }

/-- Selection over the indices `start` to `stop` − 1, in increasing order, from an empty table and an empty queue, as both stand
when a session opens (R76, R87; log 20). -/
def runSelection (recipe : SamplingRecipe) (start stop : Nat) (r : RevisitScheduler) : RevisitScheduler :=
  (List.range' start (stop - start)).foldl (selectIndex recipe) { r with table := [], queue := [] }

end Sys2Proof.Machine
end

