-- ==== Sys2Proof/Machine/Session.lean ====
section
/-! DEFINITION. The wafer session (chapter 4): the four session notices, and the ALIGNMENT and END_WAFER commands. -/

namespace Sys2Proof.Machine

/-! ## Session notices (R54) -/

/-- The three stored recipes latched together, when all are present (R61). -/
def latchRecipe (p : PathInterface) : Option WaferRecipe :=
  match p.focusRecipe, p.samplingRecipe, p.geometryRecipe with
  | some f, some m, some g => some { focus := f, sampling := m, geometry := g }
  | _, _, _ => none

/-- The session record as chamber entry opens it, before selection: steps 1 to 4 of R63. -/
def openedSession (c : CarrierSlot) (w : WaferRecipe) (n : Session) : Session :=
  { n with
    chamberSlot := some c, recipe := some w, tallies := WaferTallies.zero, histogram := Vector.replicate 64 0
    cadenceIndex := 0, offsetX := 0, offsetY := 0, aligned := false }

/-- The Revisit Scheduler after chamber entry: the session opened, selection run over the slot's range, ALIGNING (R63). -/
def openSession (c : CarrierSlot) (w : WaferRecipe) (start stop : Nat) (r : RevisitScheduler) : RevisitScheduler :=
  let filled := runSelection w.sampling start stop { r with session := openedSession c w r.session }
  { filled with session := { filled.session with state := .aligning } }

/-- Chamber entry (R63). The store always holds the three recipes here (R61); if it did not, the notice would do nothing
(log 13). -/
def chamberEntry (c : CarrierSlot) (s : State) : State :=
  match latchRecipe s.pi with
  | none => s
  | some w =>
    { s with
      rs := openSession c w (rangeStart s.wt c) (rangeEnd s.wt c) s.rs
      fe := sessionStart w.focus s.fe }

/-- Exit started: the session state is remembered and becomes EXITING (R67). -/
def exitStarted (r : RevisitScheduler) : RevisitScheduler :=
  { r with session := { r.session with remembered := some r.session.state, state := .exiting } }

/-- Exit cancelled: the remembered state is restored (R67). With none remembered the session stands (log 13). -/
def exitCancelled (r : RevisitScheduler) : RevisitScheduler :=
  match r.session.remembered with
  | none => r
  | some q => { r with session := { r.session with state := q, remembered := none } }

/-- The session closed: table, queue and lane empty, no chamber slot, nothing remembered, NONE (R68, steps 5 and 6). -/
def closeSession (r : RevisitScheduler) : RevisitScheduler :=
  { r with
    table := [], queue := [], lane := []
    session := { r.session with chamberSlot := none, remembered := none, state := .none } }

/-- The wafer report composed, stored or dropped, and WAFER_DONE raised (R155). -/
def reportWafer (c : CarrierSlot) (s : State) : State :=
  raise .waferDone (storeRecord true (waferReport c (slotOf s.wt c) s.rs.session s.fe) s)

/-- Wafers reviewed counted up (R37, R68). -/
def countReviewed (t : WaferTracker) : WaferTracker :=
  { t with tallies := { t.tallies with reviewed := holdUp Config.hold8 t.tallies.reviewed } }

/-- Exit done (R68): QUEUED entries become NOT_REVIEWED, the wafer report is composed from the statistics as they stand, wafers
reviewed is counted, and the session closes. A session always has a chamber slot here; without one no report is composed
(log 13). -/
def exitDone (s : State) : State :=
  let dropped := { s with rs := dropQueued s.rs }
  let reported :=
    match s.rs.session.chamberSlot with
    | some c => reportWafer c dropped
    | none => dropped
  { reported with
    wt := countReviewed reported.wt
    rs := closeSession reported.rs }

/-! ## ALIGNMENT and END_WAFER (R64, R65) -/

/-- The alignment offsets replaced. -/
def setOffsets (x y : Int) (r : RevisitScheduler) : RevisitScheduler :=
  { r with session := { r.session with offsetX := x, offsetY := y } }

/-- ALIGNMENT taken: in ALIGNING it also sets the session aligned mark and moves the session to ACTIVE (R64; log 24). -/
def alignSession (x y : Int) (r : RevisitScheduler) : RevisitScheduler :=
  if r.session.state = .aligning then
    { r with session := { r.session with offsetX := x, offsetY := y, aligned := true, state := .active } }
  else setOffsets x y r

/-- The decision on ALIGNMENT (R64). -/
def decideAlignment : Owner := fun w s =>
  if s.rs.session.state = .none ∨ s.rs.session.state = .exiting then refuse .wrongState s
  else if within (-2000) 2000 (alignmentX w) && within (-2000) 2000 (alignmentY w) then
    take { s with rs := alignSession (alignmentX w) (alignmentY w) s.rs }
  else refuse .outOfRange s

/-- A RECALLING entry returned to DISPATCHED, the timer running on (R65). -/
def withdrawRecall (r : RevisitScheduler) : RevisitScheduler :=
  match siteEntry r with
  | some (tag, e) => if e.state = .recalling then modEntry tag (fun e => { e with state := .dispatched }) r else r
  | none => r

/-- END_WAFER taken (R65). -/
def endReview (r : RevisitScheduler) : RevisitScheduler :=
  let left := withdrawRecall (dropQueued r)
  { left with session := { left.session with state := .ending } }

/-- The decision on END_WAFER (R65). -/
def decideEndWafer : Owner := fun _ s =>
  if s.rs.session.state = .aligning ∨ s.rs.session.state = .active then take { s with rs := endReview s.rs }
  else refuse .wrongState s

end Sys2Proof.Machine
end

