-- ==== Sys2Proof/Machine/Lot.lean ====
section
/-! DEFINITION. Lots and wafer identity (chapter 2): the lot header, wafer entries, the slot map, ID reads, ID_OVERRIDE, LOT_CLOSE
and the close of a lot. -/

namespace Sys2Proof.Machine

/-! ## The lot header (R25 to R27) -/

/-- e(n) for the ending values `raw`: the larger of end(n) clamped into 0..4096 and e(n − 1); e(0) is 0 (R27). -/
def effectiveEnd (raw : Nat → Nat) : Nat → Nat
  | 0 => 0
  | n + 1 => max (min (raw n) Config.defectIndices) (effectiveEnd raw n)

/-- The RANGE_FAULT mark of the slot with index n: end < e(s − 1) or end > 4096 (R27). -/
def rangeFaultOf (raw : Nat → Nat) (n : Nat) : Bool :=
  raw n < effectiveEnd raw n || Config.defectIndices < raw n

/-- The ending values of a lot header by slot index, 0 for an index that is no slot. -/
def headerEnds (w : Line) (n : Nat) : Nat := if h : n < 25 then headerEnd w ⟨n, h⟩ else 0

/-- The Wafer Tracker after a lot header is taken (R26). -/
def openLot (check : Bool) (w : Line) (t : WaferTracker) : WaferTracker :=
  { t with
    lot := .loading
    lotNumber := headerLotNumber w
    idCheck := check
    idMask := headerIdMask w
    ends := Vector.ofFn fun c => effectiveEnd (headerEnds w) (c.val + 1)
    slots := Vector.ofFn fun c => { SlotRecord.reset with rangeFault := rangeFaultOf (headerEnds w) c.val }
    tallies := LotTallies.zero }

/-- The decision on a lot header (R25, R26). -/
def decideLotHeader : Owner := fun w s =>
  if s.wt.lot ≠ .noLot then refuse .wrongState s
  else
    match headerIdCheck w with
    | none => refuse .outOfRange s
    | some check => take { s with wt := openLot check w s.wt, rs := { s.rs with defects := [] } }

/-! ## Wafer entries (R28) -/

/-- A slot's wafer is untouched (R24). -/
def untouched (r : SlotRecord) : Bool :=
  (r.location == .absent || r.location == .inCarrier) && !r.aligned && !r.visited && r.idState == .unchecked

/-- The decision on a wafer entry posted to the staged slot of carrier slot `c` (R28). -/
def decideWaferEntry (c : CarrierSlot) : Owner := fun w s =>
  if s.wt.lot = .noLot ∨ s.wt.lot = .closing then refuse .wrongState s
  else if entrySlot w ≠ slotNumber c then refuse .outOfRange s
  else if s.wt.lot = .opened ∧ untouched (slotOf s.wt c) = false then refuse .wrongState s
  else take { s with wt := modSlot c (fun r => { r with expectedId := some (entryId w) }) s.wt }

/-! ## The slot map (R29, R30) -/

/-- A slot record after its condition is mapped (R30). -/
def mapSlot (k : Condition) (r : SlotRecord) : SlotRecord :=
  { r with condition := k, location := if k = .present then .inCarrier else .absent }

/-- The conditions of a slot map, with one that is undefined read as UNMAPPED; used once all are defined. -/
def mapConditions (w : Line) : Vector Condition 25 := Vector.ofFn fun c => (mapCondition w c).getD .unmapped

/-- The Wafer Tracker after a slot map is taken (R30). -/
def applyMap (m : Vector Condition 25) (t : WaferTracker) : WaferTracker :=
  { t with
    lot := .opened
    slots := Vector.ofFn fun c => mapSlot m[c] t.slots[c]
    tallies := { t.tallies with present := (m.toList.filter (· == .present)).length } }

/-- The decision on a slot map (R29). -/
def decideSlotMap : Owner := fun w s =>
  if s.wt.lot ≠ .loading then refuse .wrongState s
  else if allSlots.all (fun c => (mapCondition w c).isSome) then take { s with wt := applyMap (mapConditions w) s.wt }
  else refuse .outOfRange s

/-! ## ID reads (R31, R32) -/

/-- Every character whose mask mark is set is equal (R31). -/
def maskedEqual (mask : BitVec 12) (a b : WaferId) : Bool :=
  (List.finRange 12).all fun c => !mask.getLsbD c.val || a[c] == b[c]

/-- The ID state an ID read sets (R31). -/
def idStateOf (ok : Bool) (mask : BitVec 12) (expected : Option WaferId) (chars : WaferId) : IdState :=
  if ok then
    match expected with
    | none => .idNoReference
    | some e => if maskedEqual mask chars e then .idOk else .idMismatch
  else .idUnread

/-- An ID mismatch counted (R32, R37). -/
def countMismatch (t : WaferTracker) : WaferTracker :=
  { t with tallies := { t.tallies with mismatches := holdUp Config.hold16 t.tallies.mismatches } }

/-- An ID read taken for the aligner's wafer: its read ID and ID state; a mismatch is counted and raised (R31, R32). -/
def applyIdRead (c : CarrierSlot) (ok : Bool) (chars : WaferId) (s : State) : State :=
  let q := idStateOf ok s.wt.idMask (slotOf s.wt c).expectedId chars
  let read := { s with wt := modSlot c (fun r => { r with readId := some chars, idState := q }) s.wt }
  if q = .idMismatch then raise .idMismatch { read with wt := countMismatch read.wt } else read

/-- The decision on an ID read (R31). -/
def decideIdRead : Owner := fun w s =>
  match s.wt.aligner with
  | none => refuse .wrongState s
  | some c =>
    match readStatus w with
    | none => refuse .outOfRange s
    | some ok => take (applyIdRead c ok (readChars w) s)

/-! ## ID_OVERRIDE (R33) -/

/-- The ID states an override may replace (R33). -/
def unconfirmed (q : IdState) : Bool := q == .idMismatch || q == .idUnread || q == .idNoReference

/-- The decision on ID_OVERRIDE (R33). -/
def decideIdOverride : Owner := fun w s =>
  if s.wt.lot = .noLot ∨ s.wt.lot = .loading then refuse .wrongState s
  else
    match slotOfNumber (overrideSlot w) with
    | none => refuse .outOfRange s
    | some c =>
      if unconfirmed (slotOf s.wt c).idState then
        take { s with wt := modSlot c (fun r => { r with idState := .idOverridden }) s.wt }
      else refuse .wrongState s

/-! ## Closing the lot (R34 to R36) -/

/-- Wafers not visited: the PRESENT slots whose visited mark is clear (R36). -/
def notVisitedCount (t : WaferTracker) : Nat :=
  (t.slots.toList.filter fun r => r.condition == .present && !r.visited).length

/-- The lot closes (R36): wafers not visited is computed, the lot report is composed with the wafer-reports-lost count, which then
becomes 0, stored or dropped, LOT_DONE is raised (R157), and the lot state is NO_LOT. -/
def closeLot (s : State) : State :=
  let tallies := { s.wt.tallies with notVisited := notVisitedCount s.wt }
  let report := lotReport s.wt.lotNumber tallies s.ru.waferReportsLost
  raise .lotDone
    (storeRecord false report
      { s with
        wt := { s.wt with tallies := tallies, lot := .noLot }
        ru := { s.ru with waferReportsLost := 0 } })

/-- The test for rest made in CLOSING (R35). -/
def restTest (s : State) : State := if s.wt.lot = .closing ∧ atRest s.wt = true then closeLot s else s

/-- The decision on LOT_CLOSE (R34). -/
def decideLotClose : Owner := fun _ s =>
  if s.wt.lot = .noLot ∨ s.wt.lot = .loading then refuse .wrongState s
  else if atRest s.wt then take (closeLot s)
  else take { s with wt := { s.wt with lot := .closing } }

end Sys2Proof.Machine
end

