-- ==== Sys2Proof/Machine/Handler.lean ====
section
/-! DEFINITION. Wafer movement checks (chapter 3): the six handler commands and their checks, the handler completion, and
RELOCATE. -/

namespace Sys2Proof.Machine

/-! ## The checks of a handler command (R41) -/

/-- A check: its condition, and the reason given when the condition fails. -/
abbrev Check := Bool × RewriteReason

/-- The reason of the first check that fails, in the order of the list (R41). -/
def firstFailure : List Check → Option RewriteReason
  | [] => none
  | (ok, reason) :: rest => if ok then firstFailure rest else some reason

/-- The channel is HALTED. -/
def isHalted (c : Channel) : Bool := haltedFlag c

/-- Checks 4 to 6 (R41, R42). -/
def channelChecks (t : WaferTracker) : List Check :=
  [(t.lot == .opened || t.lot == .closing, .noLot), (!isHalted t.channel, .halted), (t.channel == .idle, .busy)]

/-- A slot that is DOUBLE or CROSSED is unusable (R24). -/
def usable (r : SlotRecord) : Bool := r.condition != .double && r.condition != .crossed

/-- A place's wafer has a property; false for an empty place. -/
def wafer? (t : WaferTracker) (place : Option CarrierSlot) (f : SlotRecord → Bool) : Bool :=
  match place with
  | some c => f (slotOf t c)
  | none => false

/-- The checks of PICK CARRIER(s): 4 to 9 (R41, R43). -/
def pickCarrierChecks (c : CarrierSlot) (t : WaferTracker) : List Check :=
  channelChecks t ++
    [(t.lot != .closing, .lotClosing), (t.robot == none, .robotFull), (usable (slotOf t c), .slotUnusable),
     ((slotOf t c).location != .returned, .reviewedAlready), ((slotOf t c).location == .inCarrier, .notHere)]

/-- The checks of PICK ALIGNER: 4 to 6, 8 and 10. -/
def pickAlignerChecks (t : WaferTracker) : List Check :=
  channelChecks t ++ [(t.robot == none, .robotFull), (t.aligner.isSome, .notHere)]

/-- The checks of PICK STAGE: 4 to 6, 8, 10 and 16 (R41, R45). -/
def pickStageChecks (t : WaferTracker) (r : RevisitScheduler) : List Check :=
  channelChecks t ++ [(t.robot == none, .robotFull), (t.chamber.isSome, .notHere), ((siteEntry r).isNone, .siteBusy)]

/-- The checks of PLACE ALIGNER: 4 to 6, 8 and 11. -/
def placeAlignerChecks (t : WaferTracker) : List Check :=
  channelChecks t ++ [(t.robot.isSome, .robotEmpty), (t.aligner == none, .occupied)]

/-- The identity check of the stage: the ID check is OFF, or the ID state is ID_OK or ID_OVERRIDDEN (R44). -/
def idPasses (t : WaferTracker) (r : SlotRecord) : Bool := !t.idCheck || r.idState == .idOk || r.idState == .idOverridden

/-- The recipe store holds all three recipes (R44, R56). -/
def recipesPresent (p : PathInterface) : Bool := p.focusRecipe.isSome && p.samplingRecipe.isSome && p.geometryRecipe.isSome

/-- The checks of PLACE STAGE: 4 to 6, 8, 11 and 13 to 15 (R41, R44). -/
def placeStageChecks (p : PathInterface) (t : WaferTracker) : List Check :=
  channelChecks t ++
    [(t.robot.isSome, .robotEmpty), (t.chamber == none, .occupied),
     (wafer? t t.robot (fun r => r.aligned), .notAligned), (wafer? t t.robot (idPasses t), .idCheck),
     (recipesPresent p, .noRecipe)]

/-- The checks of PLACE CARRIER(s): 4 to 6, 8 and 12 (R41, R43). -/
def placeCarrierChecks (c : CarrierSlot) (t : WaferTracker) : List Check :=
  channelChecks t ++ [(t.robot.isSome, .robotEmpty), (t.robot == some c, .wrongSlot)]

/-- The channel carries a passed command (R46). -/
def passCommand (c : HeldCommand) (t : WaferTracker) : WaferTracker := { t with channel := .outstanding c }

/-- The end of the checks: the reason of the first that fails, or the command passes for its wafer (R41, R46). The checks of a
command that has a wafer leave none without one; NOT_HERE stands for a command without a wafer (log 13). -/
def settle (checks : List Check) (wafer : Option CarrierSlot) (pass : CarrierSlot → State) : Except RewriteReason State :=
  match firstFailure checks with
  | some reason => .error reason
  | none =>
    match wafer with
    | some c => .ok (pass c)
    | none => .error .notHere

/-- PICK CARRIER(s) (R41): check 3 asks for a carrier slot 1..25. -/
def judgePickCarrier : CommandJudge := fun w tag s =>
  match slotOfNumber (commandCarrier w).toNat with
  | none => .error .malformed
  | some c =>
    settle (pickCarrierChecks c s.wt) (some c) fun c =>
      { s with wt := passCommand { tag := tag, verb := .pick, place := .carrier, carrier := commandCarrier w, wafer := c } s.wt }

/-- PICK ALIGNER (R41). -/
def judgePickAligner : CommandJudge := fun w tag s =>
  settle (pickAlignerChecks s.wt) s.wt.aligner fun c =>
    { s with wt := passCommand { tag := tag, verb := .pick, place := .aligner, carrier := commandCarrier w, wafer := c } s.wt }

/-- PICK STAGE (R41, R45, R46): passed, it sends exit started. -/
def judgePickStage : CommandJudge := fun w tag s =>
  settle (pickStageChecks s.wt s.rs) s.wt.chamber fun c =>
    { s with
      wt := passCommand { tag := tag, verb := .pick, place := .stage, carrier := commandCarrier w, wafer := c } s.wt
      rs := exitStarted s.rs }

/-- PLACE ALIGNER (R41). -/
def judgePlaceAligner : CommandJudge := fun w tag s =>
  settle (placeAlignerChecks s.wt) s.wt.robot fun c =>
    { s with wt := passCommand { tag := tag, verb := .place, place := .aligner, carrier := commandCarrier w, wafer := c } s.wt }

/-- PLACE STAGE (R41, R44). -/
def judgePlaceStage : CommandJudge := fun w tag s =>
  settle (placeStageChecks s.pi s.wt) s.wt.robot fun c =>
    { s with wt := passCommand { tag := tag, verb := .place, place := .stage, carrier := commandCarrier w, wafer := c } s.wt }

/-- PLACE CARRIER(s) (R41, R43): check 3 asks for a carrier slot 1..25. -/
def judgePlaceCarrier : CommandJudge := fun w tag s =>
  match slotOfNumber (commandCarrier w).toNat with
  | none => .error .malformed
  | some c =>
    settle (placeCarrierChecks c s.wt) s.wt.robot fun c =>
      { s with wt := passCommand { tag := tag, verb := .place, place := .carrier, carrier := commandCarrier w, wafer := c } s.wt }

/-- The decision on a handler command by its verb and place. -/
def judgeByCode (v : Verb) (p : Place) : CommandJudge :=
  match v, p with
  | .pick, .carrier => judgePickCarrier
  | .pick, .aligner => judgePickAligner
  | .pick, .stage => judgePickStage
  | .place, .aligner => judgePlaceAligner
  | .place, .stage => judgePlaceStage
  | .place, .carrier => judgePlaceCarrier

/-- The decision on a handler command: check 3 asks for defined verb and place codes; the row's own verb and place are decided by
`own`, the others by the table (R41). -/
def commandWith (v : Verb) (p : Place) (own : CommandJudge) : CommandJudge := fun w tag s =>
  match commandVerb w, commandPlace w with
  | some v', some p' => if v' = v ∧ p' = p then own w tag s else judgeByCode v' p' w tag s
  | _, _ => .error .malformed

/-! ## Completions (R48 to R50) -/

/-- The move of a DONE completion (R48). -/
def applyMove (k : HeldCommand) (t : WaferTracker) : WaferTracker :=
  let c := k.wafer
  match k.verb, k.place with
  | .pick, .carrier => modSlot c (fun r => { r with location := .onRobot, aligned := false }) { t with robot := some c }
  | .pick, .aligner =>
    modSlot c (fun r => { r with location := .onRobot, aligned := true }) { t with aligner := none, robot := some c }
  | .pick, .stage =>
    modSlot c (fun r => { r with location := .onRobot, aligned := false }) { t with chamber := none, robot := some c }
  | .place, .aligner => modSlot c (fun r => { r with location := .onAligner }) { t with robot := none, aligner := some c }
  | .place, .stage =>
    modSlot c (fun r => { r with location := .inChamber, visited := true }) { t with robot := none, chamber := some c }
  | .place, .carrier =>
    modSlot c (fun r => { r with location := if r.visited then .returned else .inCarrier }) { t with robot := none }

/-- The notice of a DONE completion to the session (R49). -/
def completionNotice (k : HeldCommand) (s : State) : State :=
  match k.verb, k.place with
  | .place, .stage => chamberEntry k.wafer s
  | .pick, .stage => exitDone s
  | _, _ => s

/-- A completion taken with DONE, in the order of R49. -/
def completeDone (k : HeldCommand) (s : State) : State :=
  restTest (completionNotice k { s with wt := { applyMove k s.wt with channel := .idle } })

/-- The places emptied by a FAULT: the robot, and the aligner or the chamber when the command named it (R50). -/
def emptyPlaces (p : Place) (t : WaferTracker) : WaferTracker :=
  match p with
  | .carrier => { t with robot := none }
  | .aligner => { t with robot := none, aligner := none }
  | .stage => { t with robot := none, chamber := none }

/-- A handling fault counted (R37, R50). -/
def countFault (t : WaferTracker) : WaferTracker :=
  { t with tallies := { t.tallies with faults := holdUp Config.hold16 t.tallies.faults } }

/-- The Wafer Tracker after a FAULT: the wafer UNKNOWN, the places empty, the channel HALTED, the fault counted (R50). -/
def faultWafer (k : HeldCommand) (t : WaferTracker) : WaferTracker :=
  countFault
    { emptyPlaces k.place (modSlot k.wafer (fun r => { r with location := .unknown }) t) with
      channel := .halted k.wafer k.verb k.place }

/-- A completion taken with FAULT (R50): HANDLING_FAULT is raised before the handling note is stored or dropped (R158). -/
def completeFault (k : HeldCommand) (fault : Nat) (s : State) : State :=
  restTest
    (storeRecord false (handlingNote k.wafer k.verb k.place fault k.tag)
      (raise .handlingFault { s with wt := faultWafer k s.wt }))

/-- The decision on a completion record (R48). -/
def decideCompletion : Owner := fun w s =>
  match s.wt.channel with
  | .outstanding k =>
    if completionTag w ≠ k.tag then refuse .stale s
    else
      match completionDone w with
      | none => refuse .outOfRange s
      | some true => take (completeDone k s)
      | some false => take (completeFault k (completionFault w) s)
  | .idle | .halted _ _ _ => refuse .stale s

/-! ## RELOCATE (R51 to R53) -/

/-- The place a location names already holds a wafer (R51, check 5). -/
def placeTaken (l : Location) (t : WaferTracker) : Bool :=
  match l with
  | .onRobot => t.robot.isSome
  | .onAligner => t.aligner.isSome
  | .inChamber => t.chamber.isSome
  | .absent | .inCarrier | .returned | .unknown => false

/-- Checks 2 to 5 on the location of a RELOCATE of the wafer of slot `c` after a fault at place `p` (R51). -/
def relocationOk (c : CarrierSlot) (p : Place) (l : Location) (t : WaferTracker) : Bool :=
  l != .absent && l != .unknown
    && !(l == .inCarrier && (slotOf t c).visited) && !(l == .returned && !(slotOf t c).visited)
    && !(l == .inChamber && p != .stage) && !placeTaken l t

/-- The place a location names holds the wafer (R52). -/
def fillPlace (c : CarrierSlot) (l : Location) (t : WaferTracker) : WaferTracker :=
  match l with
  | .onRobot => { t with robot := some c }
  | .onAligner => { t with aligner := some c }
  | .inChamber => { t with chamber := some c }
  | .absent | .inCarrier | .returned | .unknown => t

/-- The Wafer Tracker after RELOCATE: steps 1 to 3 of R52. -/
def relocateWafer (c : CarrierSlot) (l : Location) (t : WaferTracker) : WaferTracker :=
  { fillPlace c l
      (modSlot c (fun r => { r with location := l, aligned := false, visited := r.visited || l == .inChamber }) t) with
    channel := .idle }

/-- The notice of a RELOCATE to the session (R53). -/
def relocateNotice (c : CarrierSlot) (v : Verb) (p : Place) (l : Location) (s : State) : State :=
  match v, p with
  | .place, .stage => if s.rs.session.state = .none ∧ l = .inChamber then chamberEntry c s else s
  | .pick, .stage =>
    if s.rs.session.state = .exiting then
      if l = .inChamber then { s with rs := exitCancelled s.rs } else exitDone s
    else s
  | _, _ => s

/-- The decision on RELOCATE (R51, R52). -/
def decideRelocate : Owner := fun w s =>
  match s.wt.channel with
  | .halted c v p =>
    if relocateSlot w ≠ slotNumber c then refuse .wrongState s
    else
      match relocateLocation w with
      | none => refuse .outOfRange s
      | some l =>
        if relocationOk c p l s.wt then
          take (restTest (relocateNotice c v p l { s with wt := relocateWafer c l s.wt }))
        else refuse .outOfRange s
  | .idle | .outstanding _ => refuse .wrongState s

end Sys2Proof.Machine
end

