-- ==== Sys2Proof/Machine/Recipes.lean ====
section
/-! DEFINITION. The recipe store: the focus, sampling and geometry recipe posts (R56 to R60). -/

namespace Sys2Proof.Machine

/-- The calibration site lies inside a radius limit: x² + y² ≤ R² (R58, R60). -/
def siteInside (r : FocusRecipe) (radius : Int) : Bool := r.calX * r.calX + r.calY * r.calY ≤ radius * radius

/-- The radius limit a focus recipe is checked against: the stored geometry recipe's, or 150000 µm (R58). -/
def radiusInForce (p : PathInterface) : Int :=
  match p.geometryRecipe with
  | some g => g.radius
  | none => Config.largestRadius

/-- The cross-checks of a focus recipe (R58). -/
def focusCrossOk (radius : Int) (r : FocusRecipe) : Bool :=
  r.floor < r.ceiling && within r.floor r.ceiling r.nominal && r.narrowN ≤ r.wideN
    && ((r.wideN : Int) - 1) * r.wideDz ≤ r.ceiling - r.floor
    && ((r.narrowN : Int) - 1) * r.narrowDz ≤ r.ceiling - r.floor
    && siteInside r radius

/-- The decision on a focus recipe (R56 to R58). -/
def decideFocusRecipe : Owner := fun w s =>
  match focusRecipeOf w with
  | none => refuse .outOfRange s
  | some r =>
    if focusCrossOk (radiusInForce s.pi) r then take { s with pi := { s.pi with focusRecipe := some r } }
    else refuse .outOfRange s

/-- The decision on a sampling recipe (R56, R59). -/
def decideSamplingRecipe : Owner := fun w s =>
  match samplingRecipeOf w with
  | none => refuse .outOfRange s
  | some r => take { s with pi := { s.pi with samplingRecipe := some r } }

/-- The cross-check of a geometry recipe against the stored focus recipe, when that is present (R60). -/
def geometryCrossOk (p : PathInterface) (r : GeometryRecipe) : Bool :=
  match p.focusRecipe with
  | some f => siteInside f r.radius
  | none => true

/-- The decision on a geometry recipe (R56, R60). -/
def decideGeometryRecipe : Owner := fun w s =>
  match geometryRecipeOf w with
  | none => refuse .outOfRange s
  | some r =>
    if geometryCrossOk s.pi r then take { s with pi := { s.pi with geometryRecipe := some r } }
    else refuse .outOfRange s

end Sys2Proof.Machine
end

