-- ==== Sys2Proof/Machine/Region.lean ====
section
/-! DEFINITION. The Path Interface's own records: the setup record (R19, R20), CLEAR and the tool clear (R22), and pin reset (R21). -/

namespace Sys2Proof.Machine

/-! ## Setup (R19, R20) -/

/-- The setup record taken: every field replaced, the part READY, SETUP_TAKEN raised, and ATTN judged against the new enable set
(R19, R20). -/
def applySetup (u : Setup) (s : State) : State :=
  raise .setupTaken { s with pi := { s.pi with setup := u, part := .ready } }

/-- The decision on a setup record (R19). -/
def decideSetup : Owner := fun w s =>
  if s.pi.part = .ready ∧ s.wt.lot ≠ .noLot then refuse .wrongState s
  else
    match setupOf w with
    | none => refuse .outOfRange s
    | some u => take (applySetup u s)

/-! ## CLEAR (R22) -/

/-- The Path Interface after a tool clear: every staging buffer but the control slot's empty, the refusal count 0 (R22). -/
def clearInterface (p : PathInterface) : PathInterface :=
  { p with
    staging := (Vector.replicate 39 StagingBuffer.empty).set (stagedIndex .control).val (clearMarks (bufferOf p .control))
      (stagedIndex .control).isLt
    refusals := 0 }

/-- The Revisit Scheduler after a tool clear: its reset values, with the field correction table kept (R70, R86, R93, R117). -/
def clearScheduler (r : RevisitScheduler) : RevisitScheduler := { RevisitScheduler.reset with corrections := r.corrections }

/-- The Focus Engine after a tool clear: its reset values, with the capability set kept (R135, R149). -/
def clearFocus (f : FocusEngine) : FocusEngine := { FocusEngine.reset with capability := f.capability }

/-- The Report Unit after a tool clear: its reset values, with CLEAR_DONE the one pending kind (R164). -/
def clearReports (enable : EventSet) : ReportUnit :=
  syncAttn enable { ReportUnit.reset with pendingEvents := EventKind.clearDone.set }

/-- A tool clear at every block (R22, R38, R55, R70, R86, R93, R117, R135, R149, R164). -/
def toolClear (s : State) : State :=
  { s with
    pi := clearInterface s.pi
    wt := WaferTracker.reset
    rs := clearScheduler s.rs
    fe := clearFocus s.fe
    ru := clearReports s.pi.setup.enable }

/-- The decision on CLEAR: taken in every lot state and session state (R22). -/
def decideClear : Owner := fun _ s => take (toolClear s)

/-! ## Pin reset (R1, R21) -/

/-- Every block at its pin-reset values with the straps sampled. The transactions in progress are abandoned: they leave the queue
with no response and no further beat; a command whose transaction has not reached the part still waits (R21; log 16). -/
def pinResetState (wb : BitVec 3) (bypass : Bool) (s : State) : State :=
  { pending := s.pending.filter (fun c => !inProgress c), traffic := Traffic.none, pi := PathInterface.reset wb bypass, wt := WaferTracker.reset,
    rs := RevisitScheduler.reset, fe := FocusEngine.reset, ru := ReportUnit.reset }

end Sys2Proof.Machine
end

