-- ==== Sys2Proof/Machine/Reports.lean ====
section
/-! DEFINITION. The status and event slots (R161, R162) and ACK_FLAGS (R163). -/

namespace Sys2Proof.Machine

/-- The status slot's answer: the status record, and no change (R162). -/
def serveStatus : Serve := fun _ s => (statusRecord s, s)

/-- The pending event set cleared, ATTN brought to its condition (R160, R161). -/
def clearEvents (enable : EventSet) (r : ReportUnit) : ReportUnit := syncAttn enable { r with pendingEvents := 0 }

/-- The event slot's answer: the event record; a read by SUPERVISOR then clears the pending set (R161). -/
def serveEvent : Serve := fun role s =>
  (eventRecord s.ru, if role = .supervisor then { s with ru := clearEvents s.pi.setup.enable s.ru } else s)

/-- Every bit of an ACK_FLAGS set but bit 0, REPORT_LOST: HALTED, and codes that are no sticky flag (R163, R168). -/
def ackOthers (w : Line) : Word := w[0] &&& ~~~1

/-- The decision on ACK_FLAGS (R163). -/
def decideAckFlags : Owner := fun w s =>
  if ackOthers w = 0 then
    take { s with ru := { s.ru with reportLost := s.ru.reportLost && !bitAt w[0] 0 } }
  else refuse .outOfRange s

end Sys2Proof.Machine
end

