-- ==== Sys2Proof/Machine/Owners.lean ====
section
/-! DEFINITION. Which owner decides the records of each slot (R9, R166), the bulk slots' owners (R12), and who answers each served
slot (R13). -/

namespace Sys2Proof.Machine

/-- The owners of the nine control commands (R9). -/
def controlOwners : OwnerTable
  | .clear => some decideClear
  | .lotClose => some decideLotClose
  | .idOverride => some decideIdOverride
  | .relocate => some decideRelocate
  | .alignment => some decideAlignment
  | .endWafer => some decideEndWafer
  | .urgent => some decideUrgent
  | .tableLoad => some decideTableLoad
  | .ackFlags => some decideAckFlags
  | _ => none

/-- A slot that accepts one kind. -/
def onlyKind (k : RecordKind) (own : Owner) : OwnerTable := withOwner k own fun _ => none

/-- The owners of a staged slot other than the mailbox, whose command its judge decides (R9, R10, R166). -/
def ownersOf : StagedSlot → OwnerTable
  | .setup => onlyKind .setup decideSetup
  | .control => controlOwners
  | .lotHeader => onlyKind .lotHeader decideLotHeader
  | .waferEntry c => onlyKind .waferEntry (decideWaferEntry c)
  | .focusRecipe => onlyKind .focusRecipe decideFocusRecipe
  | .samplingRecipe => onlyKind .samplingRecipe decideSamplingRecipe
  | .geometryRecipe => onlyKind .geometryRecipe decideGeometryRecipe
  | .mailbox => fun _ => none
  | .completion => onlyKind .completion decideCompletion
  | .slotMap => onlyKind .slotMap decideSlotMap
  | .idRead => onlyKind .idRead decideIdRead
  | .arrival => onlyKind .arrival decideArrival
  | .sweep => onlyKind .sweep decideSweep
  | .capability => onlyKind .capability decideCapability
  | .result => onlyKind .result decideResult

/-- The decision on any handler command. -/
def judgeCommand : CommandJudge := fun w tag s =>
  match commandVerb w, commandPlace w with
  | some v, some p => judgeByCode v p w tag s
  | _, _ => .error .malformed

/-- The owner of a bulk slot's records (R12). -/
def bulkOwner : BulkSlot → Owner
  | .tableStream => decideStreamLine
  | .defect i => decideDefectEntry i

/-- Everyone who decides a record (R9, R10, R12). -/
def deciders : Deciders := { staged := ownersOf, judge := judgeCommand, bulk := bulkOwner }

/-- The deciders with a row's own decision named for a kind of a staged slot. -/
def withRecord (slot : StagedSlot) (k : RecordKind) (own : Owner) : Deciders :=
  { deciders with staged := fun t => if t = slot then withOwner k own (ownersOf t) else ownersOf t }

/-- The deciders with the decision on one handler command named; the others are decided by the table (R41). -/
def withCommand (v : Verb) (p : Place) (own : CommandJudge) : Deciders := { deciders with judge := commandWith v p own }

/-- The deciders with a row's own decision named for a bulk slot. -/
def withBulk (slot : BulkSlot) (own : Owner) : Deciders :=
  { deciders with bulk := fun t => if t = slot then own else bulkOwner t }

/-- Who answers each served slot (R13); the report window is answered beat by beat instead (R16). -/
def serveTable : ServedSlot → Serve
  | .status => serveStatus
  | .event => serveEvent
  | .target => serveTarget
  | .plan => servePlan
  | .reportWindow => serveStatus

/-- The table with one served slot's own answer named. -/
def servedWith (z : ServedSlot) (own : Serve) : ServedSlot → Serve := fun y => if y = z then own else serveTable y

/-- A read burst of which every beat is formed now. -/
def readWhole (serve : ServedSlot → Serve) (r : ReadBurst) (s : State) : State := readStep serve 0 r.length r s

end Sys2Proof.Machine
end

