-- ==== Sys2Proof/Machine/Commands.lean ====
section
/-! DEFINITION. The meanings of the 43 commands, one definition per row of spec/opcode_table.json. Every command has a next state. -/

namespace Sys2Proof.Machine

/-- PIN_RESET: every block at its pin-reset values with the straps sampled (R1, R21). -/
def execPinReset (wb : BitVec 3) (bypass : Bool) (s : State) : Host.Outcome State Fault Refusal :=
  .next (pinResetState wb bypass s)

/-- STAGED_WRITE: a burst without a post, merged into the staging buffers of the slots it writes (R7), whichever slot the command
names (log 5). -/
def execStagedWrite (_slot : Option StagedSlot) (b : WriteBurst) (s : State) : Host.Outcome State Fault Refusal :=
  .next (writeStep deciders b s)

/-- SETUP (R19, R20). -/
def execSetup (b : WriteBurst) (s : State) : Host.Outcome State Fault Refusal :=
  .next (writeStep (withRecord .setup .setup decideSetup) b s)

/-- CLEAR: the tool clear (R22). -/
def execClear (b : WriteBurst) (s : State) : Host.Outcome State Fault Refusal :=
  .next (writeStep (withRecord .control .clear decideClear) b s)

/-- LOT_CLOSE (R34). -/
def execLotClose (b : WriteBurst) (s : State) : Host.Outcome State Fault Refusal :=
  .next (writeStep (withRecord .control .lotClose decideLotClose) b s)

/-- ID_OVERRIDE (R33). -/
def execIdOverride (b : WriteBurst) (s : State) : Host.Outcome State Fault Refusal :=
  .next (writeStep (withRecord .control .idOverride decideIdOverride) b s)

/-- RELOCATE (R51 to R53). -/
def execRelocate (b : WriteBurst) (s : State) : Host.Outcome State Fault Refusal :=
  .next (writeStep (withRecord .control .relocate decideRelocate) b s)

/-- ALIGNMENT (R64). -/
def execAlignment (b : WriteBurst) (s : State) : Host.Outcome State Fault Refusal :=
  .next (writeStep (withRecord .control .alignment decideAlignment) b s)

/-- END_WAFER (R65). -/
def execEndWafer (b : WriteBurst) (s : State) : Host.Outcome State Fault Refusal :=
  .next (writeStep (withRecord .control .endWafer decideEndWafer) b s)

/-- URGENT (R82, R83). -/
def execUrgent (b : WriteBurst) (s : State) : Host.Outcome State Fault Refusal :=
  .next (writeStep (withRecord .control .urgent decideUrgent) b s)

/-- TABLE_LOAD (R89). -/
def execTableLoad (b : WriteBurst) (s : State) : Host.Outcome State Fault Refusal :=
  .next (writeStep (withRecord .control .tableLoad decideTableLoad) b s)

/-- ACK_FLAGS (R163). -/
def execAckFlags (b : WriteBurst) (s : State) : Host.Outcome State Fault Refusal :=
  .next (writeStep (withRecord .control .ackFlags decideAckFlags) b s)

/-- LOT_HEADER (R25 to R27). -/
def execLotHeader (b : WriteBurst) (s : State) : Host.Outcome State Fault Refusal :=
  .next (writeStep (withRecord .lotHeader .lotHeader decideLotHeader) b s)

/-- WAFER_ENTRY (R28). -/
def execWaferEntry (n : CarrierSlot) (b : WriteBurst) (s : State) : Host.Outcome State Fault Refusal :=
  .next (writeStep (withRecord (.waferEntry n) .waferEntry (decideWaferEntry n)) b s)

/-- FOCUS_RECIPE (R56 to R58). -/
def execFocusRecipe (b : WriteBurst) (s : State) : Host.Outcome State Fault Refusal :=
  .next (writeStep (withRecord .focusRecipe .focusRecipe decideFocusRecipe) b s)

/-- SAMPLING_RECIPE (R56, R59). -/
def execSamplingRecipe (b : WriteBurst) (s : State) : Host.Outcome State Fault Refusal :=
  .next (writeStep (withRecord .samplingRecipe .samplingRecipe decideSamplingRecipe) b s)

/-- GEOMETRY_RECIPE (R56, R60). -/
def execGeometryRecipe (b : WriteBurst) (s : State) : Host.Outcome State Fault Refusal :=
  .next (writeStep (withRecord .geometryRecipe .geometryRecipe decideGeometryRecipe) b s)

/-- PICK_CARRIER (R10, R41, R46). -/
def execPickCarrier (b : WriteBurst) (s : State) : Host.Outcome State Fault Refusal :=
  .next (writeStep (withCommand .pick .carrier judgePickCarrier) b s)

/-- PICK_ALIGNER (R10, R41, R46). -/
def execPickAligner (b : WriteBurst) (s : State) : Host.Outcome State Fault Refusal :=
  .next (writeStep (withCommand .pick .aligner judgePickAligner) b s)

/-- PICK_STAGE (R10, R41, R46). -/
def execPickStage (b : WriteBurst) (s : State) : Host.Outcome State Fault Refusal :=
  .next (writeStep (withCommand .pick .stage judgePickStage) b s)

/-- PLACE_ALIGNER (R10, R41, R46). -/
def execPlaceAligner (b : WriteBurst) (s : State) : Host.Outcome State Fault Refusal :=
  .next (writeStep (withCommand .place .aligner judgePlaceAligner) b s)

/-- PLACE_STAGE (R10, R41, R46). -/
def execPlaceStage (b : WriteBurst) (s : State) : Host.Outcome State Fault Refusal :=
  .next (writeStep (withCommand .place .stage judgePlaceStage) b s)

/-- PLACE_CARRIER (R10, R41, R46). -/
def execPlaceCarrier (b : WriteBurst) (s : State) : Host.Outcome State Fault Refusal :=
  .next (writeStep (withCommand .place .carrier judgePlaceCarrier) b s)

/-- COMPLETION (R48 to R50). -/
def execCompletion (b : WriteBurst) (s : State) : Host.Outcome State Fault Refusal :=
  .next (writeStep (withRecord .completion .completion decideCompletion) b s)

/-- SLOT_MAP (R29, R30). -/
def execSlotMap (b : WriteBurst) (s : State) : Host.Outcome State Fault Refusal :=
  .next (writeStep (withRecord .slotMap .slotMap decideSlotMap) b s)

/-- ID_READ (R31, R32). -/
def execIdRead (b : WriteBurst) (s : State) : Host.Outcome State Fault Refusal :=
  .next (writeStep (withRecord .idRead .idRead decideIdRead) b s)

/-- DEFECT_ENTRY (R12, R72, R73). -/
def execDefectEntry (i : Fin 4096) (b : WriteBurst) (s : State) : Host.Outcome State Fault Refusal :=
  .next (writeStep (withBulk (.defect i) (decideDefectEntry i)) b s)

/-- BULK_PARTIAL: a claim that is not a full line (R12), on the slot that the burst, not the name, gives (log 5). -/
def execBulkPartial (_slot : BulkSlot) (b : WriteBurst) (s : State) : Host.Outcome State Fault Refusal :=
  .next (writeStep deciders b s)

/-- TABLE_STREAM_LINE (R12, R90, R91). -/
def execTableStreamLine (b : WriteBurst) (s : State) : Host.Outcome State Fault Refusal :=
  .next (writeStep (withBulk .tableStream decideStreamLine) b s)

/-- TARGET_READ (R98 to R102). -/
def execTargetRead (r : ReadBurst) (s : State) : Host.Outcome State Fault Refusal :=
  .next (readWhole (servedWith .target serveTarget) r s)

/-- ARRIVAL (R103, R104). -/
def execArrival (b : WriteBurst) (s : State) : Host.Outcome State Fault Refusal :=
  .next (writeStep (withRecord .arrival .arrival decideArrival) b s)

/-- ARRIVAL_STEP_EXPIRY: the timer expires in DISPATCHED (R109). -/
def execArrivalStepExpiry (s : State) : Host.Outcome State Fault Refusal :=
  .next (expireIn [.dispatched] (idlePorts s))

/-- RECALL_EXPIRY: the timer expires in RECALLING (R110). -/
def execRecallExpiry (s : State) : Host.Outcome State Fault Refusal :=
  .next (expireIn [.recalling] (idlePorts s))

/-- FOCUS_STEP_EXPIRY: the timer expires in ARRIVED or FOCUSING (R111). -/
def execFocusStepExpiry (s : State) : Host.Outcome State Fault Refusal :=
  .next (expireIn [.arrived, .focusing] (idlePorts s))

/-- IMAGE_STEP_EXPIRY: the timer expires in FOCUSED (R111). -/
def execImageStepExpiry (s : State) : Host.Outcome State Fault Refusal :=
  .next (expireIn [.focused] (idlePorts s))

/-- PLAN_READ (R120 to R125). -/
def execPlanRead (r : ReadBurst) (s : State) : Host.Outcome State Fault Refusal :=
  .next (readWhole (servedWith .plan servePlan) r s)

/-- SWEEP (R126 to R129). -/
def execSweep (b : WriteBurst) (s : State) : Host.Outcome State Fault Refusal :=
  .next (writeStep (withRecord .sweep .sweep decideSweep) b s)

/-- COLUMN_CAPABILITY (R131). -/
def execColumnCapability (b : WriteBurst) (s : State) : Host.Outcome State Fault Refusal :=
  .next (writeStep (withRecord .capability .capability decideCapability) b s)

/-- RESULT (R112 to R114). -/
def execResult (b : WriteBurst) (s : State) : Host.Outcome State Fault Refusal :=
  .next (writeStep (withRecord .result .result decideResult) b s)

/-- EVENT_READ (R161). -/
def execEventRead (r : ReadBurst) (s : State) : Host.Outcome State Fault Refusal :=
  .next (readWhole (servedWith .event serveEvent) r s)

/-- REPORT_WINDOW_READ: beats `first` to `first + count - 1` are formed (R16, R153). -/
def execReportWindowRead (r : ReadBurst) (first count : Nat) (s : State) : Host.Outcome State Fault Refusal :=
  .next (readStep serveTable first count r s)

/-- STRADDLING_READ: refused with SLVERR (R15). -/
def execStraddlingRead (r : ReadBurst) (s : State) : Host.Outcome State Fault Refusal :=
  .next (readWhole serveTable r s)

/-- UNKNOWN_KIND_POST: a post whose kind its slot does not accept (R9, R10); the burst, not the name, gives the slot (log 5). -/
def execUnknownKindPost (_slot : StagedSlot) (b : WriteBurst) (s : State) : Host.Outcome State Fault Refusal :=
  .next (writeStep deciders b s)

end Sys2Proof.Machine
end

