-- ==== Sys2Proof/Machine/Dispatch.lean ====
section
/-! DEFINITION. One arm per command. -/

namespace Sys2Proof.Machine

/-- The effect of a command on everything but the queue. -/
def exec (i : Instr) (s : State) : Host.Outcome State Fault Refusal :=
  match i with
  | .pinReset wb bypass => Sys2Proof.Machine.execPinReset wb bypass s
  | .stagedWrite slot b => Sys2Proof.Machine.execStagedWrite slot b s
  | .setup b => Sys2Proof.Machine.execSetup b s
  | .clear b => Sys2Proof.Machine.execClear b s
  | .lotClose b => Sys2Proof.Machine.execLotClose b s
  | .idOverride b => Sys2Proof.Machine.execIdOverride b s
  | .relocate b => Sys2Proof.Machine.execRelocate b s
  | .alignment b => Sys2Proof.Machine.execAlignment b s
  | .endWafer b => Sys2Proof.Machine.execEndWafer b s
  | .urgent b => Sys2Proof.Machine.execUrgent b s
  | .tableLoad b => Sys2Proof.Machine.execTableLoad b s
  | .ackFlags b => Sys2Proof.Machine.execAckFlags b s
  | .lotHeader b => Sys2Proof.Machine.execLotHeader b s
  | .waferEntry n b => Sys2Proof.Machine.execWaferEntry n b s
  | .focusRecipe b => Sys2Proof.Machine.execFocusRecipe b s
  | .samplingRecipe b => Sys2Proof.Machine.execSamplingRecipe b s
  | .geometryRecipe b => Sys2Proof.Machine.execGeometryRecipe b s
  | .pickCarrier b => Sys2Proof.Machine.execPickCarrier b s
  | .pickAligner b => Sys2Proof.Machine.execPickAligner b s
  | .pickStage b => Sys2Proof.Machine.execPickStage b s
  | .placeAligner b => Sys2Proof.Machine.execPlaceAligner b s
  | .placeStage b => Sys2Proof.Machine.execPlaceStage b s
  | .placeCarrier b => Sys2Proof.Machine.execPlaceCarrier b s
  | .completion b => Sys2Proof.Machine.execCompletion b s
  | .slotMap b => Sys2Proof.Machine.execSlotMap b s
  | .idRead b => Sys2Proof.Machine.execIdRead b s
  | .defectEntry n b => Sys2Proof.Machine.execDefectEntry n b s
  | .bulkPartial slot b => Sys2Proof.Machine.execBulkPartial slot b s
  | .tableStreamLine b => Sys2Proof.Machine.execTableStreamLine b s
  | .targetRead r => Sys2Proof.Machine.execTargetRead r s
  | .arrival b => Sys2Proof.Machine.execArrival b s
  | .arrivalStepExpiry => Sys2Proof.Machine.execArrivalStepExpiry s
  | .recallExpiry => Sys2Proof.Machine.execRecallExpiry s
  | .focusStepExpiry => Sys2Proof.Machine.execFocusStepExpiry s
  | .imageStepExpiry => Sys2Proof.Machine.execImageStepExpiry s
  | .planRead r => Sys2Proof.Machine.execPlanRead r s
  | .sweep b => Sys2Proof.Machine.execSweep b s
  | .columnCapability b => Sys2Proof.Machine.execColumnCapability b s
  | .result b => Sys2Proof.Machine.execResult b s
  | .eventRead r => Sys2Proof.Machine.execEventRead r s
  | .reportWindowRead r first count => Sys2Proof.Machine.execReportWindowRead r first count s
  | .straddlingRead r => Sys2Proof.Machine.execStraddlingRead r s
  | .unknownKindPost slot b => Sys2Proof.Machine.execUnknownKindPost slot b s

end Sys2Proof.Machine
end

