-- ==== Sys2Proof/Machine/Intake.lean ====
section
/-! DEFINITION. The row of the table under which a write burst stands in the queue (log 4, log 5): the row of its first post, or of its
first claim on a bulk slot, or STAGED_WRITE. -/

namespace Sys2Proof.Machine

/-- The row of a handler command by its verb and place; one with an undefined code has the first row's, and is rewritten MALFORMED
whatever its row (R41; log 5). -/
def mailboxRow (w : Line) (b : WriteBurst) : Instr :=
  match commandVerb w, commandPlace w with
  | some .pick, some .aligner => .pickAligner b
  | some .pick, some .stage => .pickStage b
  | some .place, some .aligner => .placeAligner b
  | some .place, some .stage => .placeStage b
  | some .place, some .carrier => .placeCarrier b
  | _, _ => .pickCarrier b

/-- The row of a post by the slot and the kind it holds (R9, R166). -/
def postRow (slot : StagedSlot) (k : Option RecordKind) (w : Line) (b : WriteBurst) : Instr :=
  match slot, k with
  | .setup, some .setup => .setup b
  | .control, some .clear => .clear b
  | .control, some .lotClose => .lotClose b
  | .control, some .idOverride => .idOverride b
  | .control, some .relocate => .relocate b
  | .control, some .alignment => .alignment b
  | .control, some .endWafer => .endWafer b
  | .control, some .urgent => .urgent b
  | .control, some .tableLoad => .tableLoad b
  | .control, some .ackFlags => .ackFlags b
  | .lotHeader, some .lotHeader => .lotHeader b
  | .waferEntry n, some .waferEntry => .waferEntry n b
  | .focusRecipe, some .focusRecipe => .focusRecipe b
  | .samplingRecipe, some .samplingRecipe => .samplingRecipe b
  | .geometryRecipe, some .geometryRecipe => .geometryRecipe b
  | .mailbox, some .handlerCommand => mailboxRow w b
  | .completion, some .completion => .completion b
  | .slotMap, some .slotMap => .slotMap b
  | .idRead, some .idRead => .idRead b
  | .arrival, some .arrival => .arrival b
  | .sweep, some .sweep => .sweep b
  | .capability, some .capability => .columnCapability b
  | .result, some .result => .result b
  | _, _ => .unknownKindPost slot b

/-- The row of a burst by what it posts to a staged slot. -/
def stagedRow (s : State) (b : WriteBurst) (slot : StagedSlot) : Instr :=
  let share := shareOf s.pi.window (stagedNumber slot) b
  let u := mergeShare (mayWrite s.pi.part slot (roleOf s.pi b.header)) share (bufferOf s.pi slot)
  postRow slot (postKind u.words[7]) u.words b

/-- The row of a burst by its claim on a bulk slot (R12). -/
def bulkRow (s : State) (b : WriteBurst) (slot : BulkSlot) : Instr :=
  let share := shareOf s.pi.window (bulkNumber slot) b
  if roleOf s.pi b.header = .supervisor ∧ fullLine b.header share = true then
    match slot with
    | .tableStream => .tableStreamLine b
    | .defect i => .defectEntry i b
  else .bulkPartial slot b

/-- The row of a write burst. -/
def writeRow (s : State) (b : WriteBurst) : Instr :=
  let slots := slotOrder s.pi.window b
  let posts := (slots.filterMap stagedOfNumber).filter fun t => isPost (shareOf s.pi.window (stagedNumber t) b)
  match posts, slots.filterMap bulkOfNumber with
  | t :: _, _ => stagedRow s b t
  | [], t :: _ => bulkRow s b t
  | [], [] => .stagedWrite (slots.filterMap stagedOfNumber).head? b

end Sys2Proof.Machine
end

