-- ==== Sys2Proof/Safety.lean ====
section
/-! DEFINITION. The terms of the statements: what it is for a burst to post a record, the state a post leaves beside its owner's
effect, and the laws of the whole machine that every step keeps. -/

namespace Sys2Proof.Machine

/-! ## Record kinds -/

/-- The kinds each staged slot accepts (R9, R166). -/
def acceptedKinds : StagedSlot → List RecordKind
  | .setup => [.setup]
  | .control => [.clear, .lotClose, .idOverride, .relocate, .alignment, .endWafer, .urgent, .tableLoad, .ackFlags]
  | .lotHeader => [.lotHeader]
  | .waferEntry _ => [.waferEntry]
  | .focusRecipe => [.focusRecipe]
  | .samplingRecipe => [.samplingRecipe]
  | .geometryRecipe => [.geometryRecipe]
  | .mailbox => [.handlerCommand]
  | .completion => [.completion]
  | .slotMap => [.slotMap]
  | .idRead => [.idRead]
  | .arrival => [.arrival]
  | .sweep => [.sweep]
  | .capability => [.capability]
  | .result => [.result]

/-! ## Posts -/

/-- The beats of a write burst in a staged slot (R3). -/
def stagedShare (slot : StagedSlot) (b : WriteBurst) (s : State) : List PlacedBeat :=
  shareOf s.pi.window (stagedNumber slot) b

/-- The slot's staging buffer once the share of a permitted writer is merged (R7, R8). -/
def mergedBuffer (slot : StagedSlot) (b : WriteBurst) (s : State) : StagingBuffer :=
  (stagedShare slot b s).foldl mergeBeat (bufferOf s.pi slot)

/-- The record offered: the buffer's words after the merge (R8). -/
def recordWords (slot : StagedSlot) (b : WriteBurst) (s : State) : Line := (mergedBuffer slot b s).words

/-- The tag of the record offered (R8). -/
def recordTag (slot : StagedSlot) (b : WriteBurst) (s : State) : BitVec 8 := postTag (recordWords slot b s)[7]

/-- The tag of a post by a role that may not write the slot: its word-7 beats laid over the buffer word (R8). -/
def foreignTag (slot : StagedSlot) (b : WriteBurst) (s : State) : BitVec 8 :=
  postTag (((stagedShare slot b s).filter fun p => writesWord p 7).foldl layOver (bufferOf s.pi slot).words[7])

/-- A write burst is decoded: the part is active and the burst lies in the tool region (R1, R2). -/
abbrev Decoded (h : BurstHeader) (s : State) : Prop := s.pi.bypass = false ∧ inRegion s.pi.window h.addr.toNat = true

/-- The slot is active in the part state (R4). -/
abbrev Active (slot : StagedSlot) (s : State) : Prop := s.pi.part = .ready ∨ slot = .setup

/-- The writer may write the slot (R6). -/
abbrev MayWrite (slot : StagedSlot) (b : WriteBurst) (s : State) : Prop :=
  mayWrite s.pi.part slot (roleOf s.pi b.header) = true

/-- Every beat of a burst lies in the slot numbered `n`, or where a write has no effect on the part: in a served slot or in ordinary
memory (R3). A burst over several staged or bulk slots is `BurstsTreatedSlotBySlot`'s. -/
abbrev Lone (n : Nat) (b : WriteBurst) (s : State) : Prop :=
  ∀ p ∈ placedBeats b, slotOfAddr s.pi.window p.addr = n
    ∨ (stagedOfNumber (slotOfAddr s.pi.window p.addr) = none ∧ bulkOfNumber (slotOfAddr s.pi.window p.addr) = none)

/-- The burst posts an active staged slot, whoever writes it, and has an effect in no other (R8). -/
abbrev Posts (slot : StagedSlot) (b : WriteBurst) (s : State) : Prop :=
  Decoded b.header s ∧ Active slot s ∧ Lone (stagedNumber slot) b s ∧ isPost (stagedShare slot b s) = true

/-- The burst posts a record of a kind that passes the three checks of R9. -/
abbrev Offers (slot : StagedSlot) (k : RecordKind) (b : WriteBurst) (s : State) : Prop :=
  Posts slot b s ∧ MayWrite slot b s ∧ postKind (recordWords slot b s)[7] = some k
    ∧ ∀ w ∈ usedWords k, (mergedBuffer slot b s).marks[w] = true

/-- The ports after a write burst: these beats passed downstream under its address phase, memory's response returned upstream with
its ID (R2, R17). -/
def writeTraffic (b : WriteBurst) (beats : List WriteData) : Traffic :=
  { downWrite := some { header := b.header, beats := beats }, upWrite := some { header := b.header, response := b.answer }
    downRead := none, upRead := none }

/-- The ports after a write burst has passed to memory as it arrived (R2). -/
def passedTraffic (b : WriteBurst) : Traffic := writeTraffic b b.beats

/-- The ports after a read burst has passed to memory: its address phase and length downstream, memory's beats upstream (R2). -/
def memoryTraffic (r : ReadBurst) : Traffic :=
  { downWrite := none, upWrite := none, downRead := some { header := r.header, length := r.length }
    upRead := some { header := r.header, beats := r.answer } }

/-- The ports after a read the part answers itself, with these beats (R13). -/
def answerTraffic (r : ReadBurst) (beats : List ReadBeat) : Traffic :=
  { downWrite := none, upWrite := none, downRead := none, upRead := some { header := r.header, beats := beats } }

/-- The Path Interface after a post of a slot: the buffer's words, all its marks clear, and the post recorded (R9, R11). -/
def postedInterface (slot : StagedSlot) (words : Line) (tag : BitVec 8) (o : PostOutcome) (p : PathInterface) : PathInterface :=
  { p with
    staging := p.staging.set (stagedIndex slot).val { words := words, marks := Vector.replicate 8 false } (stagedIndex slot).isLt
    lastPost := { slot := stagedNumber slot, tag := tag, outcome := some o }
    refusals := if o = .taken then p.refusals else min (p.refusals + 1) 65535 }

/-- The Report Unit after a refusal: RECORD_REFUSED pending, the attention line by its condition, the refusal kept (R11). -/
def refusedReports (slot : Nat) (tag : BitVec 8) (o : PostOutcome) (s : State) : ReportUnit :=
  { s.ru with
    pendingEvents := s.ru.pendingEvents ||| EventKind.recordRefused.set
    attn := attnOf s.pi.setup.enable (s.ru.pendingEvents ||| EventKind.recordRefused.set)
    lastRefusal := { slot := slot, tag := tag, outcome := some o } }

/-- The state after a post taken, beside what its owner does (R7 to R9, R11). -/
def takenPost (slot : StagedSlot) (b : WriteBurst) (s : State) : State :=
  { s with
    traffic := passedTraffic b
    pi := postedInterface slot (recordWords slot b s) (recordTag slot b s) .taken s.pi }

/-- The state after a permitted writer's post refused (R7 to R9, R11). -/
def refusedPost (slot : StagedSlot) (b : WriteBurst) (o : PostOutcome) (s : State) : State :=
  { s with
    traffic := passedTraffic b
    pi := postedInterface slot (recordWords slot b s) (recordTag slot b s) o s.pi
    ru := refusedReports (stagedNumber slot) (recordTag slot b s) o s }

/-- The state after a post by a role that may not write the slot: nothing merged, refused NOT_PERMITTED (R6, R8, R9, R11). -/
def foreignPost (slot : StagedSlot) (b : WriteBurst) (s : State) : State :=
  { s with
    traffic := passedTraffic b
    pi := postedInterface slot (bufferOf s.pi slot).words (foreignTag slot b s) .notPermitted s.pi
    ru := refusedReports (stagedNumber slot) (foreignTag slot b s) .notPermitted s }

/-- A mailbox post rewritten with a reason: the held beats replaced by the NULL post word, COMMAND_REWRITTEN raised and the reason
kept, and the refusal recorded with its outcome (R10, R11). `words` and `tag` are those of the post. -/
def rewrittenPost (words : Line) (tag : BitVec 8) (reason : RewriteReason) (o : PostOutcome) (b : WriteBurst) (s : State) : State :=
  let events := s.ru.pendingEvents ||| EventKind.commandRewritten.set ||| EventKind.recordRefused.set
  { s with
    traffic := writeTraffic b (rewriteBeats s.pi.window tag reason b)
    pi := postedInterface .mailbox words tag o s.pi
    ru := { s.ru with
      pendingEvents := events
      attn := attnOf s.pi.setup.enable events
      lastRefusal := { slot := 192, tag := tag, outcome := some o }
      lastRewrite := some reason } }

/-! ## Wafers and commands -/

/-- The Wafer Tracker with one slot record put in place. -/
def withSlot (c : CarrierSlot) (r : SlotRecord) (t : WaferTracker) : WaferTracker :=
  { t with slots := t.slots.set c.val r c.isLt }

/-- A slot's wafer is untouched (R24). -/
abbrev Untouched (r : SlotRecord) : Prop :=
  (r.location = .absent ∨ r.location = .inCarrier) ∧ r.aligned = false ∧ r.visited = false ∧ r.idState = .unchecked

/-- The lot is at rest (R34). -/
abbrev AtRest (t : WaferTracker) : Prop :=
  (∀ c : CarrierSlot, (slotOf t c).location = .absent ∨ (slotOf t c).location = .inCarrier ∨ (slotOf t c).location = .returned)
    ∧ t.robot = none ∧ t.aligner = none ∧ t.chamber = none ∧ t.channel = .idle

/-- The burst posts a complete handler command of this verb and place, from SUPERVISOR (R10, R40). -/
abbrev Commands (v : Verb) (p : Place) (b : WriteBurst) (s : State) : Prop :=
  Offers .mailbox .handlerCommand b s ∧ commandVerb (recordWords .mailbox b s) = some v
    ∧ commandPlace (recordWords .mailbox b s) = some p

/-- The command the channel holds after a pass (R46). -/
def heldOf (v : Verb) (p : Place) (c : CarrierSlot) (b : WriteBurst) (s : State) : HeldCommand :=
  { tag := recordTag .mailbox b s, verb := v, place := p, carrier := commandCarrier (recordWords .mailbox b s), wafer := c }

/-- The reason of the first check of the table of R41 that fails, from check 3 on: the whole table, row by row. `v` and `p` are the
verb and place when their codes are defined, and `n` is the carrier slot field. -/
def tableReason (v : Option Verb) (p : Option Place) (n : Nat) (s : State) : Option RewriteReason :=
  match v, p with
  | some v, some p =>
    if p = .carrier ∧ ¬ (1 ≤ n ∧ n ≤ 25) then some .malformed
    else if ¬ (s.wt.lot = .opened ∨ s.wt.lot = .closing) then some .noLot
    else if s.wt.channel.code = 2 then some .halted
    else if s.wt.channel ≠ .idle then some .busy
    else if v = .pick ∧ p = .carrier ∧ s.wt.lot = .closing then some .lotClosing
    else if v = .pick ∧ s.wt.robot ≠ none then some .robotFull
    else if v = .place ∧ s.wt.robot = none then some .robotEmpty
    else if v = .pick ∧ p = .carrier then
      match slotOfNumber n with
      | none => some .malformed
      | some c =>
        if (slotOf s.wt c).condition = .double ∨ (slotOf s.wt c).condition = .crossed then some .slotUnusable
        else if (slotOf s.wt c).location = .returned then some .reviewedAlready
        else if (slotOf s.wt c).location ≠ .inCarrier then some .notHere
        else none
    else if v = .pick ∧ p = .aligner ∧ s.wt.aligner = none then some .notHere
    else if v = .pick ∧ p = .stage ∧ s.wt.chamber = none then some .notHere
    else if v = .place ∧ p = .aligner ∧ s.wt.aligner ≠ none then some .occupied
    else if v = .place ∧ p = .stage ∧ s.wt.chamber ≠ none then some .occupied
    else if v = .place ∧ p = .carrier ∧ s.wt.robot.map slotNumber ≠ some n then some .wrongSlot
    else if v = .place ∧ p = .stage ∧ (s.wt.robot.map fun c => (slotOf s.wt c).aligned) ≠ some true then some .notAligned
    else if v = .place ∧ p = .stage ∧ s.wt.idCheck = true
        ∧ (s.wt.robot.map fun c => (slotOf s.wt c).idState) ≠ some .idOk
        ∧ (s.wt.robot.map fun c => (slotOf s.wt c).idState) ≠ some .idOverridden then some .idCheck
    else if v = .place ∧ p = .stage
        ∧ (s.pi.focusRecipe = none ∨ s.pi.samplingRecipe = none ∨ s.pi.geometryRecipe = none) then some .noRecipe
    else if v = .pick ∧ p = .stage ∧ (∃ e ∈ s.rs.table, isSite e.2.state = true) then some .siteBusy
    else none
  | _, _ => some .malformed

/-! ## Bulk claims -/

/-- The beats of a write burst in a bulk slot. -/
def bulkShare (slot : BulkSlot) (b : WriteBurst) (s : State) : List PlacedBeat := shareOf s.pi.window (bulkNumber slot) b

/-- The burst makes a claim on a bulk slot, and has an effect in no other slot (R12). -/
abbrev Claims (slot : BulkSlot) (b : WriteBurst) (s : State) : Prop :=
  Decoded b.header s ∧ s.pi.part = .ready ∧ Lone (bulkNumber slot) b s ∧ bulkShare slot b s ≠ []

/-- The claim is a full line from SUPERVISOR (R12). -/
abbrev FullClaim (slot : BulkSlot) (b : WriteBurst) (s : State) : Prop :=
  Claims slot b s ∧ roleOf s.pi b.header = .supervisor ∧ fullLine b.header (bulkShare slot b s) = true

/-- The eight words of a full line. -/
def claimWords (slot : BulkSlot) (b : WriteBurst) (s : State) : Line := lineWords (bulkShare slot b s)

/-- The state after a claim taken, beside what its owner does: the line passed, the claim recorded with tag 0 (R11, R12). -/
def takenClaim (slot : BulkSlot) (b : WriteBurst) (s : State) : State :=
  { s with
    traffic := passedTraffic b
    pi := { s.pi with lastPost := { slot := bulkNumber slot, tag := 0, outcome := some .taken } } }

/-- The state after a claim refused (R11, R12). -/
def refusedClaim (slot : BulkSlot) (b : WriteBurst) (o : PostOutcome) (s : State) : State :=
  { s with
    traffic := passedTraffic b
    pi := { s.pi with
      lastPost := { slot := bulkNumber slot, tag := 0, outcome := some o }
      refusals := min (s.pi.refusals + 1) 65535 }
    ru := refusedReports (bulkNumber slot) 0 o s }

/-! ## Served reads -/

/-- A read burst lies wholly inside one active served slot (R13). -/
abbrev ReadsSlot (z : ServedSlot) (r : ReadBurst) (s : State) : Prop :=
  Decoded r.header s ∧ (s.pi.part = .ready ∨ z = .status) ∧ readAddrs r ≠ []
    ∧ ∀ a ∈ readAddrs r, servedOfNumber (slotOfAddr s.pi.window a) = some z

/-- The ports after a read is answered from one record: each beat the bytes it addresses, with OKAY (R13). -/
def recordTraffic (r : ReadBurst) (l : Line) : Traffic :=
  answerTraffic r ((readAddrs r).map fun a =>
    { data := l[wordOfAddr a] &&& laneMask (beatLanes r.header a), lanes := beatLanes r.header a, response := .okay })

/-! ## Laws every step keeps -/

/-- ATTN is high exactly while some kind is both pending and enabled (R160). -/
def AttnRight (s : State) : Prop := s.ru.attn = true ↔ ∃ i, i < 12 ∧ s.ru.pendingEvents.getLsbD i ∧ s.pi.setup.enable.getLsbD i

/-- The report FIFO never holds more than 512 words (R150). -/
def FifoBounded (s : State) : Prop := s.ru.fifo.length ≤ 512

/-- Every block but the straps at its pin-reset value (R1). -/
def BypassHolds (s : State) : Prop :=
  s.pi.bypass = true →
    s.pi = PathInterface.reset s.pi.window true ∧ s.wt = WaferTracker.reset ∧ s.rs = RevisitScheduler.reset
      ∧ s.fe = FocusEngine.reset ∧ s.ru = ReportUnit.reset

/-- The counts that hold at a limit lie within it (R11, R37, R69, R130, R136, R138, R151, R157). -/
def CountsHold (s : State) : Prop :=
  s.pi.refusals ≤ 65535 ∧ s.ru.lost ≤ 65535 ∧ s.ru.waferReportsLost ≤ 255
    ∧ s.wt.tallies.reviewed ≤ 255 ∧ s.wt.tallies.faults ≤ 65535 ∧ s.wt.tallies.mismatches ≤ 65535
    ∧ s.wt.tallies.present ≤ 25 ∧ s.wt.tallies.notVisited ≤ 25
    ∧ s.rs.session.tallies.restarts ≤ 65535
    ∧ s.fe.stats.accepted ≤ 4095 ∧ s.fe.stats.residualHigh ≤ 4095 ∧ s.fe.stats.residualLow ≤ 4095
    ∧ s.fe.stats.runCount ≤ 15 ∧ s.fe.stats.driftEvents ≤ 255 ∧ s.fe.stats.calRun ≤ 255
    ∧ s.fe.stats.calSuppressed ≤ 255 ∧ s.fe.stats.calUnmeasured ≤ 255 ∧ ∀ z ∈ s.fe.zones, z.2.count ≤ 255

/-- Where a command takes its wafer from: the location the wafer of a command under way has (R41, R46). -/
def commandFrom (v : Verb) (p : Place) : Location :=
  match v, p with
  | .pick, .carrier => .inCarrier
  | .pick, .aligner => .onAligner
  | .pick, .stage => .inChamber
  | .place, _ => .onRobot

/-- The place a command moves its wafer to is empty (R41). -/
def commandClear (v : Verb) (p : Place) (t : WaferTracker) : Prop :=
  match v, p with
  | .pick, _ => t.robot = none
  | .place, .aligner => t.aligner = none
  | .place, .stage => t.chamber = none
  | .place, .carrier => True

/-- Places and locations agree, and the channel, the lot and the wafer of a command or a halt agree with both (R39, R26, R47). -/
def PlacesAgree (s : State) : Prop :=
  (∀ c : CarrierSlot, s.wt.robot = some c ↔ (slotOf s.wt c).location = .onRobot)
    ∧ (∀ c : CarrierSlot, s.wt.aligner = some c ↔ (slotOf s.wt c).location = .onAligner)
    ∧ (∀ c : CarrierSlot, s.wt.chamber = some c ↔ (slotOf s.wt c).location = .inChamber)
    ∧ (s.wt.lot = .noLot ∨ s.wt.lot = .loading → s.wt.channel = .idle
        ∧ s.wt.robot = none ∧ s.wt.aligner = none ∧ s.wt.chamber = none)
    ∧ (match s.wt.channel with
      | .idle => True
      | .outstanding k => (slotOf s.wt k.wafer).location = commandFrom k.verb k.place ∧ commandClear k.verb k.place s.wt
      | .halted c _ _ => (slotOf s.wt c).location = .unknown)

/-- At most one revisit entry is in a site state, the revisit table is in its canonical form, and the lane's occupancy is at most
its four places (R80, R81, R115). -/
def SiteAndLane (s : State) : Prop :=
  (s.rs.table.map Prod.fst).Pairwise (· < ·)
    ∧ (∀ p ∈ s.rs.table, ∀ q ∈ s.rs.table, isSite p.2.state = true → isSite q.2.state = true → p = q)
    ∧ laneOccupancy s.rs ≤ 4

/-- The sparse stores are in their canonical form, each within its bounds, and so is what their indices are made from (R71, R77,
R78, R88, R89, R97, R136). -/
def StoresBounded (s : State) : Prop :=
  Sparse.wf 4096 s.rs.defects = true ∧ Sparse.wf 512 s.rs.table = true ∧ Sparse.wf 1024 s.rs.corrections = true
    ∧ Sparse.wf 144 s.fe.zones = true
    ∧ s.rs.cursor + s.rs.remaining ≤ 1024
    ∧ s.rs.session.tallies.selected ≤ 508
    ∧ (∀ m, s.pi.samplingRecipe = some m → m.cap ≤ 508)
    ∧ (∀ w, s.rs.session.recipe = some w → w.sampling.cap ≤ 508)
    ∧ (∀ c, s.fe.context = some c → c.zone.1 < 12 ∧ c.zone.2 < 12)

end Sys2Proof.Machine
end

