-- ==== Sys2Proof/Certificates/Slice0/Obligations.lean ====
section
/-! DEFINITION. The statements for the provers. Most conclusions are equations with the whole next state, so each says its own
frame: whatever the right-hand side does not change reads as before. -/

open Sys2Proof Sys2Proof.Machine

/-! ## Steps, time and resets -/

/-- A step takes the command at the front of the queue and runs it on the state with the queue's rest (model's form: log 16). -/
def Obligations.StepRunsFrontCommand : Prop :=
  ∀ (c : Instr) (rest : List Instr) (s : State), step (s.withPending (c :: rest)) = exec c (s.withPending rest)

/-- With nothing waiting, a step is one tick of the 1 ms timebase (log 2). A timer started with a limit counts the ticks after the
first, and the tick that brings the elapsed time to the limit is the expiry (R108). The expiry does what the expiry row of the site
entry's state does (R109 to R111), leaves the ports as they were, and does nothing with no site entry. -/
def Obligations.TimerExpiresAfterItsLimit : Prop :=
  (∀ s : State, s.pending = [] → step s = .next (tick s))
  ∧ (∀ (s : State) (limit : Nat), 0 < limit → s.rs.timer = .running limit 0 true →
    (∀ n, 1 ≤ n → n ≤ limit → tick^[n] s = { s with rs := { s.rs with timer := .running limit (n - 1) false } })
    ∧ tick^[limit + 1] s = expireTimer { s with rs := { s.rs with timer := .running limit (limit - 1) false } })
  ∧ (∀ s : State, (∀ p ∈ s.rs.table, isSite p.2.state = false) → expireTimer s = s)
  ∧ ∀ (s : State) (tag : Nat) (e : RevisitEntry) (c : Instr), s.rs.timer ≠ .stopped → siteEntry s.rs = some (tag, e) →
    (e.state = .dispatched ∧ c = .arrivalStepExpiry) ∨ (e.state = .recalling ∧ c = .recallExpiry)
      ∨ ((e.state = .arrived ∨ e.state = .focusing) ∧ c = .focusStepExpiry) ∨ (e.state = .focused ∧ c = .imageStepExpiry) →
    (expireTimer s).traffic = s.traffic
    ∧ exec c s = .next { expireTimer s with traffic := { downWrite := none, upWrite := none, downRead := none, upRead := none } }

/-- PIN_RESET leaves every block at the values R21, R38, R55, R70, R86, R93, R117, R135, R149 and R164 list, with the straps sampled
(R1). The transactions in progress are abandoned with no response and no further beat (R21): those whose address is accepted (log 6)
and a window read some of whose beats were formed; every other command still waits (model's form: log 16). State.reset is that state
with WB = 0 and BYPASS low (log 1). -/
def Obligations.PinResetValues : Prop :=
  (∀ (wb : BitVec 3) (bypass : Bool) (s : State), exec (.pinReset wb bypass) s = .next
    { pending := s.pending.filter fun c => !inProgress c
      traffic := { downWrite := none, upWrite := none, downRead := none, upRead := none }
      pi :=
        { window := wb, bypass := bypass, part := .unconfigured
          setup :=
            { roleMap := Vector.replicate 16 .other, arrivalLimit := 0, focusLimit := 0, imageLimit := 0, maxAttempts := 2
              threshold := 256, enable := 0 }
          staging := Vector.replicate 39 { words := Vector.replicate 8 0, marks := Vector.replicate 8 false }
          focusRecipe := none, samplingRecipe := none, geometryRecipe := none
          lastPost := { slot := 0, tag := 0, outcome := none }, refusals := 0 }
      wt :=
        { lot := .noLot, lotNumber := 0, idCheck := false, idMask := 0, ends := Vector.replicate 25 0
          slots := Vector.replicate 25
            { condition := .unmapped, location := .absent, idState := .unchecked, expectedId := none, readId := none
              aligned := false, visited := false, rangeFault := false }
          tallies := { present := 0, reviewed := 0, notVisited := 0, faults := 0, mismatches := 0 }
          robot := none, aligner := none, chamber := none, channel := .idle }
      rs :=
        { defects := []
          session :=
            { state := .none, chamberSlot := none, recipe := none, offsetX := 0, offsetY := 0, aligned := false
              remembered := none, cadenceIndex := 0
              tallies :=
                { selected := 0, skipped := 0, overCap := 0, absent := 0, urgentAdded := 0, classified := 0, notFound := 0
                  failed := 0
                  failedBy :=
                    { arrivalTimeout := 0, focusTimeout := 0, imageTimeout := 0, offWafer := 0, noMode := 0, imageFault := 0 }
                  notReviewed := 0, restarts := 0 }
              histogram := Vector.replicate 64 0, sequence := 0 }
          table := [], queue := [], lane := [], timer := .stopped, corrections := [], cursor := 0, remaining := 0 }
      fe :=
        { context := none, zones := [], capability := 0
          stats :=
            { accepted := 0, residualHigh := 0, residualLow := 0, runCount := 0, runSign := none, driftEvents := 0, calRun := 0
              calSuppressed := 0, calUnmeasured := 0, minFocus := 524272, maxFocus := -524288 } }
      ru :=
        { fifo := [], pendingEvents := 0, attn := false, lastRefusal := { slot := 0, tag := 0, outcome := none }
          lastRewrite := none, lost := 0, waferReportsLost := 0, reportLost := false } })
  ∧ exec (.pinReset 0 false) State.reset = .next State.reset
  ∧ ∀ c : Instr, inProgress c = true ↔ (∃ h, headerOf c = some h ∧ h.heldRole ≠ none)
    ∨ ∃ r first count, c = .reportWindowRead r first count ∧ first ≠ 0

/-- The laws that every step keeps hold right after reset. -/
def Obligations.LawsHoldAtReset : Prop :=
  BypassHolds State.reset ∧ AttnRight State.reset ∧ FifoBounded State.reset ∧ CountsHold State.reset
    ∧ PlacesAgree State.reset ∧ SiteAndLane State.reset ∧ StoresBounded State.reset

/-! ## Bursts and slots -/

/-- Outside the tool region, and everywhere in a bypassed part, a burst goes downstream as it arrived, memory's answer goes back
upstream with its ID, and nothing else changes (R1, R2). One statement for every command that carries a burst. -/
def Obligations.TrafficOutsideRegionPasses : Prop :=
  (∀ (c : Instr) (b : WriteBurst) (s : State), writeTarget c = some b → ¬ Decoded b.header s →
    exec c s = .next { s with
      traffic :=
        { downWrite := some { header := b.header, beats := b.beats }
          upWrite := some { header := b.header, response := b.answer }, downRead := none, upRead := none } })
  ∧ (∀ (c : Instr) (r : ReadBurst) (s : State), readTarget c = some r → ¬ Decoded r.header s →
    exec c s = .next { s with
      traffic :=
        { downWrite := none, upWrite := none, downRead := some { header := r.header, length := r.length }
          upRead := some { header := r.header, beats := r.answer } } })

/-- Inside the region a write whose beats lie in served slots and ordinary memory passes, in either part state, and changes nothing
(R2, R3, R13, R17). In UNCONFIGURED so does every write that has no beat in the setup slot, and every read that has none in the
status slot (R4); in READY a read of no served slot goes to memory (R3). -/
def Obligations.InactiveSlotsPassTraffic : Prop :=
  (∀ (c : Instr) (b : WriteBurst) (s : State), writeTarget c = some b → Decoded b.header s →
    (∀ p ∈ placedBeats b, stagedOfNumber (slotOfAddr s.pi.window p.addr) = none
      ∧ bulkOfNumber (slotOfAddr s.pi.window p.addr) = none) →
    exec c s = .next { s with traffic := passedTraffic b })
  ∧ (∀ (c : Instr) (b : WriteBurst) (s : State), writeTarget c = some b → Decoded b.header s → s.pi.part = .unconfigured →
    (∀ p ∈ placedBeats b, slotOfAddr s.pi.window p.addr ≠ 0) →
    exec c s = .next { s with traffic := passedTraffic b })
  ∧ (∀ (c : Instr) (r : ReadBurst) (s : State), readTarget c = some r → Decoded r.header s →
    (∀ a ∈ readAddrs r, ∀ z, servedOfNumber (slotOfAddr s.pi.window a) = some z →
      s.pi.part = .unconfigured ∧ z ≠ .status) →
    exec c s = .next { s with traffic := memoryTraffic r })

/-- A burst with beats in one staged slot, of which none writes the slot's word 7, is merged into the slot's staging buffer when its
writer may write the slot, and changes nothing else; one whose writer may not write the slot only passes (R6, R7). It is the
completion of STAGED_WRITE, and holds under every row's name. -/
def Obligations.ShareWithoutPostMerges : Prop :=
  ∀ (c : Instr) (slot : StagedSlot) (b : WriteBurst) (s : State), writeTarget c = some b → Decoded b.header s →
    Active slot s → Lone (stagedNumber slot) b s → isPost (stagedShare slot b s) = false →
    (MayWrite slot b s →
      exec c s = .next
        { s with
          traffic := passedTraffic b
          pi := { s.pi with
            staging := s.pi.staging.set (stagedIndex slot).val (mergedBuffer slot b s) (stagedIndex slot).isLt } })
    ∧ (¬ MayWrite slot b s → exec c s = .next { s with traffic := passedTraffic b })

/-- What the merge of one beat leaves in each byte and each mark of the buffer (R7). -/
def Obligations.MergedBytesAndMarks : Prop :=
  ∀ (u : StagingBuffer) (p : PlacedBeat) (w : Fin 8),
    (∀ j : Fin 8, byteAt (mergeBeat u p).words[w] j =
      if wordOfAddr p.addr = w ∧ p.strobes.getLsbD j = true then byteAt p.data j else byteAt u.words[w] j)
    ∧ ((mergeBeat u p).marks[w] = true ↔ u.marks[w] = true ∨ (wordOfAddr p.addr = w ∧ p.strobes ≠ 0))

/-- The three checks of a post to a staged slot other than the mailbox, in their order, with their outcomes; whatever the outcome
the slot's marks are cleared (R9), and a writer that may not write the slot merges nothing (R6, R8). It is the completion of
UNKNOWN_KIND_POST, and holds under every row's name. -/
def Obligations.PostChecksInOrder : Prop :=
  ∀ (c : Instr) (slot : StagedSlot) (b : WriteBurst) (s : State), writeTarget c = some b → slot ≠ .mailbox →
    Posts slot b s →
    (¬ MayWrite slot b s → exec c s = .next (foreignPost slot b s))
    ∧ (MayWrite slot b s → (∀ k ∈ acceptedKinds slot, postKind (recordWords slot b s)[7] ≠ some k) →
      exec c s = .next (refusedPost slot b .unknownKind s))
    ∧ (MayWrite slot b s → ∀ k ∈ acceptedKinds slot, postKind (recordWords slot b s)[7] = some k →
      (∃ w ∈ usedWords k, (mergedBuffer slot b s).marks[w] = false) →
      exec c s = .next (refusedPost slot b .incomplete s))

/-- What a command does is decided by its burst and not by the name of its row (log 5). A write burst has one role throughout (R5), and
its slots are treated one after another: each slot that posts at its post word, every other where the burst first addresses it (R8,
R12; log 4). An incrementing burst cut at a slot's edge does what its two parts do in turn: a longer burst takes a record from
every slot it covers whole (R12), and makes a post for each slot whose word 7 it writes (R8). -/
def Obligations.BurstsTreatedSlotBySlot : Prop :=
  (∀ (c c' : Instr) (b : WriteBurst) (s : State), writeTarget c = some b → writeTarget c' = some b → exec c s = exec c' s)
  ∧ (∀ (r : ReadBurst) (s : State), exec (.planRead r) s = exec (.targetRead r) s ∧ exec (.eventRead r) s = exec (.targetRead r) s
    ∧ exec (.straddlingRead r) s = exec (.targetRead r) s
    ∧ exec (.reportWindowRead r 0 r.length) s = exec (.targetRead r) s)
  ∧ (∀ (c : Instr) (b : WriteBurst) (s : State), writeTarget c = some b → Decoded b.header s →
    exec c s = .next ((slotOrder s.pi.window b).foldl (fun t n => treatSlot deciders (roleOf s.pi b.header) b n t)
      { s with traffic := passedTraffic b }))
  ∧ (∀ (k : BitVec 3) (b : WriteBurst) (m n : Nat), shareOf k m b ≠ [] → shareOf k n b ≠ [] →
    let posts := fun x => (stagedOfNumber x).isSome ∧ isPost (shareOf k x b) = true
    let place := fun x => (placedBeats b).findIdx fun p =>
      decide (regionBase k ≤ p.addr ∧ slotOfAddr k p.addr = x ∧ (posts x → writesWord p 7 = true))
    place m < place n → (slotOrder k b).idxOf m < (slotOrder k b).idxOf n)
  ∧ ∀ (c c' c'' : Instr) (h : BurstHeader) (x y : List WriteData) (answer : Response) (s t u : State) (sent sent' : List WriteData),
    let bytes := beatBytes h
    let edge := h.addr.toNat / bytes * bytes + x.length * bytes
    let rest : BurstHeader := { h with addr := BitVec.ofNat 40 edge, heldRole := some (roleOf s.pi h) }
    writeTarget c = some ⟨h, x ++ y, answer⟩ → writeTarget c' = some ⟨h, x, answer⟩ → writeTarget c'' = some ⟨rest, y, answer⟩ →
    h.kind = .incr → x ≠ [] → y ≠ [] → edge % 64 = 0 → h.addr.toNat / 4096 = (edge + y.length * bytes - 1) / 4096 →
    exec c' s = .next t → t.traffic.downWrite = some ⟨h, sent⟩ → exec c'' t = .next u → u.traffic.downWrite = some ⟨rest, sent'⟩ →
    exec c s = .next { u with traffic := writeTraffic ⟨h, x ++ y, answer⟩ (sent ++ sent') }

/-- The Path Interface's own checks of a mailbox post, in their order: each failure rewrites the command, with the reason and the
outcome R10 gives; what a rewritten post sends to memory, and the fields of the NULL post word (R10, R165). -/
def Obligations.MailboxChecksOfTheInterface : Prop :=
  (∀ (c : Instr) (b : WriteBurst) (s : State), writeTarget c = some b → Posts .mailbox b s →
    (¬ MayWrite .mailbox b s →
      exec c s = .next
        (rewrittenPost (bufferOf s.pi .mailbox).words (foreignTag .mailbox b s) .notPermitted .notPermitted b s))
    ∧ (MayWrite .mailbox b s → postKind (recordWords .mailbox b s)[7] ≠ some .handlerCommand →
      exec c s = .next (rewrittenPost (recordWords .mailbox b s) (recordTag .mailbox b s) .malformed .unknownKind b s))
    ∧ (MayWrite .mailbox b s → postKind (recordWords .mailbox b s)[7] = some .handlerCommand →
      (mergedBuffer .mailbox b s).marks[6] = false ∨ (mergedBuffer .mailbox b s).marks[7] = false →
      exec c s = .next (rewrittenPost (recordWords .mailbox b s) (recordTag .mailbox b s) .malformed .incomplete b s)))
  ∧ (∀ (k : BitVec 3) (tag : BitVec 8) (reason : RewriteReason) (b : WriteBurst),
    (rewriteBeats k tag reason b).length = b.beats.length
    ∧ ∀ i (h : i < b.beats.length) (h' : i < (placedBeats b).length) (h'' : i < (rewriteBeats k tag reason b).length),
      let held := regionBase k ≤ (placedBeats b)[i].addr ∧ slotOfAddr k (placedBeats b)[i].addr = 192
        ∧ writesWord (placedBeats b)[i] 7 = true
      (held → (rewriteBeats k tag reason b)[i] = { data := nullPostWord tag reason, strobes := 255 })
      ∧ (¬ held → (rewriteBeats k tag reason b)[i] = b.beats[i]))
  ∧ ∀ (tag : BitVec 8) (reason : RewriteReason),
    fld (nullPostWord tag reason) 0 8 = 0 ∧ fld (nullPostWord tag reason) 8 8 = tag.toNat
    ∧ fld (nullPostWord tag reason) 16 8 = reasonCode (some reason) ∧ fld (nullPostWord tag reason) 24 40 = 0

/-- A claim on a bulk slot by another role is refused NOT_PERMITTED, and one by SUPERVISOR that is not a full line PARTIAL (R12). A
share is a full line exactly when it writes each word once, with a 64-bit beat that has all eight strobes set, and the record then
holds in each word the data of the one beat that writes it. A share that writes nothing is such a claim too (the model's choice,
log 29). It is the completion of BULK_PARTIAL, and holds under every row's name. -/
def Obligations.BulkClaimsRefused : Prop :=
  (∀ (c : Instr) (slot : BulkSlot) (b : WriteBurst) (s : State), writeTarget c = some b → Claims slot b s →
    (roleOf s.pi b.header ≠ .supervisor → exec c s = .next (refusedClaim slot b .notPermitted s))
    ∧ (roleOf s.pi b.header = .supervisor → fullLine b.header (bulkShare slot b s) = false →
      exec c s = .next (refusedClaim slot b .partialLine s)))
  ∧ (∀ (h : BurstHeader) (share : List PlacedBeat), fullLine h share = true ↔
    beatBytes h = 8 ∧ (∀ p ∈ share, p.strobes = 255)
    ∧ ∀ w : Fin 8, ∃ p, (share.filter fun q => decide (wordOfAddr q.addr = w)) = [p])
  ∧ ∀ (h : BurstHeader) (share : List PlacedBeat), fullLine h share = true →
    share.length = 8 ∧ ∀ p ∈ share, (lineWords share)[wordOfAddr p.addr] = p.data

/-! ## The Path Interface's records -/

/-- The setup record: refused WRONG_STATE in READY with a lot, OUT_OF_RANGE when a role names no role or the attempts or threshold
lie outside their ranges; otherwise taken, replacing every field at once (R19, R20). -/
def Obligations.SetupTakenOrRefused : Prop :=
  ∀ (b : WriteBurst) (s : State), Offers .setup .setup b s →
    let w := recordWords .setup b s
    (s.pi.part = .ready ∧ s.wt.lot ≠ .noLot → exec (.setup b) s = .next (refusedPost .setup b .wrongState s))
    ∧ (¬ (s.pi.part = .ready ∧ s.wt.lot ≠ .noLot) →
      ((∃ a : Fin 16, 5 < fld w[0] (4 * a.val) 4) ∨ fld w[1] 48 8 < 1 ∨ 3 < fld w[1] 48 8 ∨ fld w[2] 0 16 < 1 ∨ 511 < fld w[2] 0 16) →
      exec (.setup b) s = .next (refusedPost .setup b .outOfRange s))
    ∧ (¬ (s.pi.part = .ready ∧ s.wt.lot ≠ .noLot) → (∀ a : Fin 16, fld w[0] (4 * a.val) 4 ≤ 5) →
      1 ≤ fld w[1] 48 8 → fld w[1] 48 8 ≤ 3 → 1 ≤ fld w[2] 0 16 → fld w[2] 0 16 ≤ 511 →
      ∃ roles : Vector Role 16, (∀ a : Fin 16, roleOfCode (fld w[0] (4 * a.val) 4) = some roles[a])
        ∧ exec (.setup b) s = .next
          { takenPost .setup b s with
            pi := { (takenPost .setup b s).pi with
              part := .ready
              setup :=
                { roleMap := roles, arrivalLimit := fld w[1] 0 16, focusLimit := fld w[1] 16 16, imageLimit := fld w[1] 32 16
                  maxAttempts := fld w[1] 48 8, threshold := fld w[2] 0 16, enable := BitVec.ofNat 12 (fld w[2] 16 12) } }
            ru := { s.ru with
              pendingEvents := s.ru.pendingEvents ||| EventKind.setupTaken.set
              attn := attnOf (BitVec.ofNat 12 (fld w[2] 16 12)) (s.ru.pendingEvents ||| EventKind.setupTaken.set) } })

/-- CLEAR is taken in every lot state and session state: it keeps the setup, the recipe store, the field correction table and the
capability set, and takes everything else to its values, with CLEAR_DONE the one pending kind (R22, R38, R55, R70, R86, R93, R117,
R135, R149, R164). -/
def Obligations.ClearIsTheToolClear : Prop :=
  ∀ (b : WriteBurst) (s : State), Offers .control .clear b s →
    exec (.clear b) s = .next
      { s with
        traffic := passedTraffic b
        pi := { s.pi with
          staging := (Vector.replicate 39 { words := Vector.replicate 8 0, marks := Vector.replicate 8 false }).set 1
            { words := recordWords .control b s, marks := Vector.replicate 8 false }
          lastPost := { slot := 1, tag := recordTag .control b s, outcome := some .taken }
          refusals := 0 }
        wt := State.reset.wt
        rs := { State.reset.rs with corrections := s.rs.corrections }
        fe := { State.reset.fe with capability := s.fe.capability }
        ru := { State.reset.ru with
          pendingEvents := EventKind.clearDone.set
          attn := s.pi.setup.enable.getLsbD 11 } }

/-! ## Served reads of the Report Unit -/

/-- A read with beats on both sides of the edge of an active served slot is refused: SLVERR and zero data on every beat, and nothing
changes, whatever the reader's role (R15). It holds under every read row's name. -/
def Obligations.StraddlingReadsRefused : Prop :=
  ∀ (c : Instr) (r : ReadBurst) (s : State) (z : ServedSlot) (a a' : Nat), readTarget c = some r → Decoded r.header s →
    (s.pi.part = .ready ∨ z = .status) → a ∈ readAddrs r → servedOfNumber (slotOfAddr s.pi.window a) = some z →
    a' ∈ readAddrs r → servedOfNumber (slotOfAddr s.pi.window a') ≠ some z →
    exec c s = .next
      { s with
        traffic := answerTraffic r
          ((readAddrs r).map fun x => { data := 0, lanes := beatLanes r.header x, response := .slverr }) }

/-- A read of the status slot, by any role and in either part state, is answered with the status record and changes nothing (R162);
a read of the event slot is answered with the event record, and one by SUPERVISOR then clears the pending set and drops ATTN
(R160, R161); the fields of the event record and of the status record, and the codes of its states (R162, R163, R167, R169). -/
def Obligations.StatusAndEventReads : Prop :=
  (∀ (c : Instr) (r : ReadBurst) (s : State), readTarget c = some r → ReadsSlot .status r s →
    exec c s = .next { s with traffic := recordTraffic r (statusRecord s) })
  ∧ (∀ (r : ReadBurst) (s : State), ReadsSlot .event r s →
    (roleOf s.pi r.header = .supervisor →
      exec (.eventRead r) s = .next
        { s with traffic := recordTraffic r (eventRecord s.ru), ru := { s.ru with pendingEvents := 0, attn := false } })
    ∧ (roleOf s.pi r.header ≠ .supervisor →
      exec (.eventRead r) s = .next { s with traffic := recordTraffic r (eventRecord s.ru) }))
  ∧ (∀ ru : ReportUnit,
    fld (eventRecord ru)[0] 0 12 = ru.pendingEvents.toNat ∧ fld (eventRecord ru)[0] 12 52 = 0
    ∧ fld (eventRecord ru)[1] 0 14 = ru.lastRefusal.slot % 16384 ∧ fld (eventRecord ru)[1] 16 8 = ru.lastRefusal.tag.toNat
    ∧ fld (eventRecord ru)[1] 24 8 = outcomeCode ru.lastRefusal.outcome
    ∧ fld (eventRecord ru)[1] 32 8 = reasonCode ru.lastRewrite ∧ fld (eventRecord ru)[1] 48 16 = ru.lost % 65536)
  ∧ (∀ s : State,
    let l := statusRecord s
    fld l[0] 0 4 = s.pi.part.code ∧ fld l[0] 4 3 = s.pi.window.toNat ∧ fld l[0] 8 4 = s.wt.lot.code
    ∧ fld l[0] 12 4 = s.wt.channel.code
    ∧ (∀ c v p, s.wt.channel = .halted c v p → fld l[0] 16 8 = c.val + 1 ∧ fld l[0] 29 1 = 1)
    ∧ ((∀ c v p, s.wt.channel ≠ .halted c v p) → fld l[0] 16 8 = 0 ∧ fld l[0] 29 1 = 0)
    ∧ fld l[0] 24 4 = s.rs.session.state.code ∧ fld l[0] 28 1 = s.ru.reportLost.toNat
    ∧ (∀ c, s.rs.session.chamberSlot = some c → fld l[0] 32 8 = c.val + 1)
    ∧ (s.rs.session.chamberSlot = none → fld l[0] 32 8 = 0)
    ∧ (∀ tag e, siteEntry s.rs = some (tag, e) → fld l[0] 40 4 = siteCode e.state ∧ fld l[0] 48 10 = tag % 1024)
    ∧ ((∀ p ∈ s.rs.table, isSite p.2.state = false) → fld l[0] 40 4 = 0 ∧ fld l[0] 48 10 = 0)
    ∧ fld l[0] 60 3 = s.rs.lane.length % 8
    ∧ fld l[1] 0 32 = s.wt.lotNumber.toNat ∧ fld l[1] 32 10 = s.rs.queue.length % 1024 ∧ fld l[1] 48 10 = s.ru.fifo.length % 1024
    ∧ fld l[2] 0 14 = s.pi.lastPost.slot % 16384 ∧ fld l[2] 16 8 = s.pi.lastPost.tag.toNat
    ∧ fld l[2] 24 8 = outcomeCode s.pi.lastPost.outcome ∧ fld l[2] 32 16 = s.pi.refusals % 65536
    ∧ fld l[2] 48 16 = s.ru.lost % 65536
    ∧ (∀ c : CarrierSlot, fld (l[3 + c.val / 8]'(by omega)) (8 * (c.val % 8)) 4 = (slotOf s.wt c).location.code
      ∧ fld (l[3 + c.val / 8]'(by omega)) (8 * (c.val % 8) + 4) 4 = (slotOf s.wt c).idState.code)
    ∧ l[7] = 0)
  ∧ [PartState.unconfigured, .ready].map PartState.code = [1, 2]
  ∧ [LotState.noLot, .loading, .opened, .closing].map LotState.code = [0, 1, 2, 3]
  ∧ (∀ k c v p, Channel.code .idle = 0 ∧ Channel.code (.outstanding k) = 1 ∧ Channel.code (.halted c v p) = 2)
  ∧ [SessionState.none, .aligning, .active, .ending, .exiting].map SessionState.code = [0, 1, 2, 3, 4]
  ∧ [RevisitState.dispatched, .recalling, .arrived, .focusing, .focused].map siteCode = [1, 2, 3, 4, 5]
  ∧ [Location.absent, .inCarrier, .onRobot, .onAligner, .inChamber, .returned, .unknown].map Location.code = [0, 1, 2, 3, 4, 5, 6]
  ∧ [IdState.unchecked, .idUnread, .idNoReference, .idOk, .idMismatch, .idOverridden].map IdState.code = [0, 1, 2, 3, 4, 5]

/-- A read of the report window by SUPERVISOR pops one word for each beat formed: beat after beat returns the head word, zero words
once the FIFO is empty; a read by another role returns zero words and pops nothing (R16, R153). -/
def Obligations.ReportWindowPopsWords : Prop :=
  ∀ (r : ReadBurst) (first count : Nat) (s : State), ReadsSlot .reportWindow r s →
    let formed := ((readAddrs r).drop first).take count
    (roleOf s.pi r.header = .supervisor →
      exec (.reportWindowRead r first count) s = .next
        { s with
          traffic := answerTraffic r (formed.mapIdx fun i a =>
            { data := s.ru.fifo.getD i 0 &&& laneMask (beatLanes r.header a), lanes := beatLanes r.header a, response := .okay })
          ru := { s.ru with fifo := s.ru.fifo.drop formed.length } })
    ∧ (roleOf s.pi r.header ≠ .supervisor →
      exec (.reportWindowRead r first count) s = .next
        { s with
          traffic := answerTraffic r
            (formed.map fun a => { data := 0, lanes := beatLanes r.header a, response := .okay }) })

/-- A composed record is stored whole or dropped whole, by the room there is; a store that takes the count from at or below the
threshold to above it raises REPORT_THRESHOLD; a drop sets REPORT_LOST, counts, and raises REPORT_LOST (R151, R152). -/
def Obligations.RecordsStoredWholeOrDropped : Prop :=
  ∀ (enable : EventSet) (threshold : Nat) (isWafer : Bool) (record : List Word) (r : ReportUnit),
    (record.length ≤ 512 - r.fifo.length →
      (r.fifo.length ≤ threshold ∧ threshold < r.fifo.length + record.length →
        storeIn enable threshold isWafer record r =
          { r with
            fifo := r.fifo ++ record
            pendingEvents := r.pendingEvents ||| EventKind.reportThreshold.set
            attn := attnOf enable (r.pendingEvents ||| EventKind.reportThreshold.set) })
      ∧ (¬ (r.fifo.length ≤ threshold ∧ threshold < r.fifo.length + record.length) →
        storeIn enable threshold isWafer record r = { r with fifo := r.fifo ++ record }))
    ∧ (512 - r.fifo.length < record.length →
      storeIn enable threshold isWafer record r =
        { r with
          reportLost := true
          lost := min (r.lost + 1) 65535
          waferReportsLost := if isWafer then min (r.waferReportsLost + 1) 255 else r.waferReportsLost
          pendingEvents := r.pendingEvents ||| EventKind.reportLost.set
          attn := attnOf enable (r.pendingEvents ||| EventKind.reportLost.set) })

/-- The length of a wafer report is 8 + e + ceil(m / 4) words, from 8 to 25 (R156); its words hold the header, the read ID, the
tallies, the focus summary, the flags, the extremes when the accepted count is not zero, and the class list, each field where R170
places it (R148, R155). That no extremes word stands in the report at an accepted count of 0 is the model's choice of R155, R156 and
R170 over R165's example, which has it written as zero (log 30). -/
def Obligations.WaferReportLength : Prop :=
  ∀ (c : CarrierSlot) (slot : SlotRecord) (n : Session) (f : FocusEngine),
    let report := waferReport c slot n f
    let e := if f.stats.accepted = 0 then 0 else 1
    let classes := (List.finRange 64).filter fun i => n.histogram[i] ≠ 0
    let m := classes.length
    let t := n.tallies
    let a := f.stats
    report.length = 8 + e + (m + 3) / 4 ∧ 8 ≤ report.length ∧ report.length ≤ 25
    ∧ ∃ w0 w1 w2 w3 w4 w5 w6 w7 extremes list, report = [w0, w1, w2, w3, w4, w5, w6, w7] ++ extremes ++ list
      ∧ fld w0 0 8 = 1 ∧ fld w0 8 8 = report.length ∧ fld w0 16 8 = c.val + 1 ∧ fld w0 24 40 = 0
      ∧ (∀ j : Fin 12, (if j.val < 8 then byteAt w1 j.val else byteAt w2 (j.val - 8)) =
        match slot.readId with
        | some v => v[j]
        | none => 0)
      ∧ fld w3 0 16 = t.selected % 65536 ∧ fld w3 16 16 = t.skipped % 65536 ∧ fld w3 32 16 = t.overCap % 65536
      ∧ fld w3 48 16 = t.absent % 65536
      ∧ fld w4 0 9 = t.classified % 512 ∧ fld w4 9 9 = t.notFound % 512 ∧ fld w4 18 9 = t.failed % 512
      ∧ fld w4 27 9 = t.notReviewed % 512 ∧ fld w4 36 2 = t.urgentAdded % 4 ∧ fld w4 48 16 = t.restarts % 65536
      ∧ fld w5 0 9 = t.failedBy.arrivalTimeout % 512 ∧ fld w5 9 9 = t.failedBy.focusTimeout % 512
      ∧ fld w5 18 9 = t.failedBy.imageTimeout % 512 ∧ fld w5 27 9 = t.failedBy.offWafer % 512
      ∧ fld w5 36 9 = t.failedBy.noMode % 512 ∧ fld w5 45 9 = t.failedBy.imageFault % 512
      ∧ fld w6 0 12 = a.accepted % 4096 ∧ fld w6 12 12 = a.residualHigh % 4096 ∧ fld w6 24 12 = a.residualLow % 4096
      ∧ fld w6 36 8 = a.driftEvents % 256
      ∧ fld w6 44 8 = (f.zones.filter fun p => p.2.measured = true).length % 256
      ∧ (∃ greatest, fld w6 52 8 = greatest % 256 ∧ (∀ p ∈ f.zones, p.2.count ≤ greatest)
        ∧ (greatest = 0 ∨ ∃ p ∈ f.zones, p.2.count = greatest))
      ∧ fld w7 0 1 = slot.rangeFault.toNat ∧ fld w7 1 1 = n.aligned.toNat ∧ fld w7 4 4 = slot.idState.code
      ∧ fld w7 8 8 = a.calRun % 256 ∧ fld w7 16 8 = a.calSuppressed % 256 ∧ fld w7 24 8 = a.calUnmeasured % 256
      ∧ (a.accepted = 0 → extremes = [])
      ∧ (a.accepted ≠ 0 → ∃ w8, extremes = [w8]
        ∧ (-2147483648 ≤ a.minFocus → a.minFocus < 2147483648 → sfld w8 0 32 = a.minFocus)
        ∧ (-2147483648 ≤ a.maxFocus → a.maxFocus < 2147483648 → sfld w8 32 32 = a.maxFocus))
      ∧ list.length = (m + 3) / 4
      ∧ ∀ i (hi : i < 4 * list.length),
        let word := list[i / 4]'(by omega)
        (∀ h : i < m, fld word (16 * (i % 4)) 6 = (classes[i]'h).val
          ∧ fld word (16 * (i % 4) + 6) 10 = n.histogram[classes[i]'h] % 1024)
        ∧ (m ≤ i → fld word (16 * (i % 4)) 16 = 0)

/-! ## Lots and wafer identity -/

/-- The lot header: refused WRONG_STATE with a lot, OUT_OF_RANGE on an undefined ID check enable; otherwise every step of R26
(R25, R26). The defect list empties; the rest of the Revisit Scheduler stands. -/
def Obligations.LotHeaderOpensLot : Prop :=
  ∀ (b : WriteBurst) (s : State), Offers .lotHeader .lotHeader b s →
    let w := recordWords .lotHeader b s
    (s.wt.lot ≠ .noLot → exec (.lotHeader b) s = .next (refusedPost .lotHeader b .wrongState s))
    ∧ (s.wt.lot = .noLot → 1 < fld w[0] 44 4 → exec (.lotHeader b) s = .next (refusedPost .lotHeader b .outOfRange s))
    ∧ (s.wt.lot = .noLot → fld w[0] 44 4 ≤ 1 →
      exec (.lotHeader b) s = .next
        { takenPost .lotHeader b s with
          wt :=
            { s.wt with
              lot := .loading
              lotNumber := BitVec.ofNat 32 (fld w[0] 0 32)
              idCheck := decide (fld w[0] 44 4 = 1)
              idMask := BitVec.ofNat 12 (fld w[0] 32 12)
              ends := Vector.ofFn fun c => effectiveEnd (headerEnds w) (c.val + 1)
              slots := Vector.ofFn fun c =>
                { condition := .unmapped, location := .absent, idState := .unchecked, expectedId := none, readId := none
                  aligned := false, visited := false, rangeFault := rangeFaultOf (headerEnds w) c.val }
              tallies := { present := 0, reviewed := 0, notVisited := 0, faults := 0, mismatches := 0 } }
          rs := { s.rs with defects := [] } })

/-- The effective slot ending table: e(0) is 0, each e(s) is the larger of the clamped ending value and e(s − 1), the RANGE_FAULT
marks, where the header holds the ending values; so the ranges follow one another and never overlap (R27, R168). -/
def Obligations.SlotRangesNeverOverlap : Prop :=
  (∀ raw : Nat → Nat,
    effectiveEnd raw 0 = 0
    ∧ (∀ n, effectiveEnd raw (n + 1) = max (min (raw n) 4096) (effectiveEnd raw n))
    ∧ (∀ n, rangeFaultOf raw n = true ↔ raw n < effectiveEnd raw n ∨ 4096 < raw n)
    ∧ (∀ m n, m ≤ n → effectiveEnd raw m ≤ effectiveEnd raw n)
    ∧ (∀ n, effectiveEnd raw n ≤ 4096)
    ∧ (∀ i m n, effectiveEnd raw m ≤ i → i < effectiveEnd raw (m + 1) → effectiveEnd raw n ≤ i → i < effectiveEnd raw (n + 1) →
      m = n))
  ∧ ∀ w : Line, (∀ c : Fin 24, headerEnds w c.val = fld (w[1 + c.val / 4]'(by omega)) (16 * (c.val % 4)) 16)
    ∧ headerEnds w 24 = fld w[0] 48 16

/-- A wafer entry posted to the staged slot of a carrier slot: the three refusals of R28 in their order, and what a taken one
stores (R28). -/
def Obligations.WaferEntryDecided : Prop :=
  ∀ (n : CarrierSlot) (b : WriteBurst) (s : State), Offers (.waferEntry n) .waferEntry b s →
    let w := recordWords (.waferEntry n) b s
    (s.wt.lot = .noLot ∨ s.wt.lot = .closing → exec (.waferEntry n b) s = .next (refusedPost (.waferEntry n) b .wrongState s))
    ∧ (s.wt.lot = .loading ∨ s.wt.lot = .opened → fld w[0] 0 8 ≠ n.val + 1 →
      exec (.waferEntry n b) s = .next (refusedPost (.waferEntry n) b .outOfRange s))
    ∧ (s.wt.lot = .opened → fld w[0] 0 8 = n.val + 1 → ¬ Untouched (slotOf s.wt n) →
      exec (.waferEntry n b) s = .next (refusedPost (.waferEntry n) b .wrongState s))
    ∧ (s.wt.lot = .loading ∨ (s.wt.lot = .opened ∧ Untouched (slotOf s.wt n)) → fld w[0] 0 8 = n.val + 1 →
      ∃ v : WaferId, (∀ c : Fin 12, v[c] = if c.val < 8 then byteAt w[1] c.val else byteAt w[2] (c.val - 8))
        ∧ exec (.waferEntry n b) s = .next
          { takenPost (.waferEntry n) b s with wt := withSlot n { slotOf s.wt n with expectedId := some v } s.wt })

/-- The slot map: refused WRONG_STATE outside LOADING, OUT_OF_RANGE on an undefined condition; otherwise each slot's condition and
location as the table of R30 gives them, the slots-present tally, and OPEN (R29, R30). -/
def Obligations.SlotMapOpensTheCarrier : Prop :=
  ∀ (b : WriteBurst) (s : State), Offers .slotMap .slotMap b s →
    let w := recordWords .slotMap b s
    let code : CarrierSlot → Nat := fun c => if c.val < 16 then fld w[0] (4 * c.val) 4 else fld w[1] (4 * (c.val - 16)) 4
    (s.wt.lot ≠ .loading → exec (.slotMap b) s = .next (refusedPost .slotMap b .wrongState s))
    ∧ (s.wt.lot = .loading → (∃ c, code c < 1 ∨ 4 < code c) →
      exec (.slotMap b) s = .next (refusedPost .slotMap b .outOfRange s))
    ∧ (s.wt.lot = .loading → (∀ c, 1 ≤ code c ∧ code c ≤ 4) →
      exec (.slotMap b) s = .next
        { takenPost .slotMap b s with
          wt :=
            { s.wt with
              lot := .opened
              slots := Vector.ofFn fun c =>
                { s.wt.slots[c] with
                  condition := if code c = 1 then .empty else if code c = 2 then .present else if code c = 3 then .double
                    else .crossed
                  location := if code c = 2 then .inCarrier else .absent }
              tallies := { s.wt.tallies with present := ((List.finRange 25).filter fun c => code c = 2).length } } })

/-- An ID read: refused WRONG_STATE with the aligner empty, OUT_OF_RANGE on an undefined read status; otherwise the read ID and the
ID state of the aligner's wafer, and at each mismatch the tally and the event (R31, R32). -/
def Obligations.IdReadSetsTheState : Prop :=
  ∀ (b : WriteBurst) (s : State), Offers .idRead .idRead b s →
    let w := recordWords .idRead b s
    (s.wt.aligner = none → exec (.idRead b) s = .next (refusedPost .idRead b .wrongState s))
    ∧ ∀ c, s.wt.aligner = some c →
      (fld w[1] 32 8 ≠ 1 → fld w[1] 32 8 ≠ 2 → exec (.idRead b) s = .next (refusedPost .idRead b .outOfRange s))
      ∧ (fld w[1] 32 8 = 1 ∨ fld w[1] 32 8 = 2 →
        ∃ v : WaferId, (∀ i : Fin 12, v[i] = if i.val < 8 then byteAt w[0] i.val else byteAt w[1] (i.val - 8))
          ∧ ∃ q : IdState,
            q = (if fld w[1] 32 8 = 2 then .idUnread
              else match (slotOf s.wt c).expectedId with
                | none => .idNoReference
                | some x => if ∀ i : Fin 12, s.wt.idMask.getLsbD i.val = true → v[i] = x[i] then .idOk else .idMismatch)
            ∧ (q ≠ .idMismatch →
              exec (.idRead b) s = .next
                { takenPost .idRead b s with wt := withSlot c { slotOf s.wt c with readId := some v, idState := q } s.wt })
            ∧ (q = .idMismatch →
              exec (.idRead b) s = .next
                { takenPost .idRead b s with
                  wt :=
                    { withSlot c { slotOf s.wt c with readId := some v, idState := q } s.wt with
                      tallies := { s.wt.tallies with mismatches := min (s.wt.tallies.mismatches + 1) 65535 } }
                  ru := raiseIn s.pi.setup.enable .idMismatch s.ru }))

/-- ID_OVERRIDE: its three refusals in their order, and ID_OVERRIDDEN for the slot when taken (R33). -/
def Obligations.IdOverrideDecided : Prop :=
  ∀ (b : WriteBurst) (s : State), Offers .control .idOverride b s →
    let n := fld (recordWords .control b s)[0] 0 8
    (s.wt.lot = .noLot ∨ s.wt.lot = .loading → exec (.idOverride b) s = .next (refusedPost .control b .wrongState s))
    ∧ (s.wt.lot = .opened ∨ s.wt.lot = .closing → n < 1 ∨ 25 < n →
      exec (.idOverride b) s = .next (refusedPost .control b .outOfRange s))
    ∧ (s.wt.lot = .opened ∨ s.wt.lot = .closing → ∀ c : CarrierSlot, n = c.val + 1 →
      let q := (slotOf s.wt c).idState
      (q ≠ .idMismatch → q ≠ .idUnread → q ≠ .idNoReference →
        exec (.idOverride b) s = .next (refusedPost .control b .wrongState s))
      ∧ (q = .idMismatch ∨ q = .idUnread ∨ q = .idNoReference →
        exec (.idOverride b) s = .next
          { takenPost .control b s with wt := withSlot c { slotOf s.wt c with idState := .idOverridden } s.wt }))

/-- LOT_CLOSE by lot state: refused in NO_LOT and LOADING, CLOSING when the lot is not at rest, and the close of R36 at once when it
is: wafers not visited computed, the lot report stored or dropped with the wafer-reports-lost count in it, LOT_DONE raised, NO_LOT
(R34, R36, R157); and the fields of the lot report (R170). -/
def Obligations.LotCloseDecided : Prop :=
  (∀ (b : WriteBurst) (s : State), Offers .control .lotClose b s →
    let tallies := { s.wt.tallies with
      notVisited := ((List.finRange 25).filter fun c =>
        (slotOf s.wt c).condition = .present ∧ (slotOf s.wt c).visited = false).length }
    (s.wt.lot = .noLot ∨ s.wt.lot = .loading → exec (.lotClose b) s = .next (refusedPost .control b .wrongState s))
    ∧ (s.wt.lot = .opened ∨ s.wt.lot = .closing → ¬ AtRest s.wt →
      exec (.lotClose b) s = .next { takenPost .control b s with wt := { s.wt with lot := .closing } })
    ∧ (s.wt.lot = .opened ∨ s.wt.lot = .closing → AtRest s.wt →
      exec (.lotClose b) s = .next
        { takenPost .control b s with
          wt := { s.wt with lot := .noLot, tallies := tallies }
          ru := raiseIn s.pi.setup.enable .lotDone
            (storeIn s.pi.setup.enable s.pi.setup.threshold false
              (lotReport s.wt.lotNumber tallies s.ru.waferReportsLost) { s.ru with waferReportsLost := 0 }) }))
  ∧ ∀ (n : BitVec 32) (t : LotTallies) (lost : Nat), ∃ w0 w1 w2 w3, lotReport n t lost = [w0, w1, w2, w3]
    ∧ fld w0 0 8 = 2 ∧ fld w0 8 8 = 4 ∧ fld w0 32 32 = n.toNat
    ∧ fld w1 0 8 = t.present % 256 ∧ fld w1 8 8 = t.reviewed % 256 ∧ fld w1 16 8 = t.notVisited % 256
    ∧ fld w1 24 8 = lost % 256 ∧ fld w2 0 16 = t.faults % 65536 ∧ fld w3 0 16 = t.mismatches % 65536

/-! ## Wafer movement -/

/-- The six handler commands pass when every check of R41 holds: the channel becomes OUTSTANDING with the command and its
wafer, a passed PICK STAGE also sends exit started, and nothing else moves (R40, R41, R43 to R46, R67). -/
def Obligations.HandlerCommandsPass : Prop :=
  ∀ (b : WriteBurst) (s : State) (c : CarrierSlot), s.wt.channel = .idle →
    let opened := s.wt.lot = .opened ∨ s.wt.lot = .closing
    let passed := fun (v : Verb) (p : Place) =>
      { takenPost .mailbox b s with wt := { s.wt with channel := .outstanding (heldOf v p c b s) } }
    (Commands .pick .carrier b s → s.wt.lot = .opened → fld (recordWords .mailbox b s)[6] 16 8 = c.val + 1 → s.wt.robot = none →
      (slotOf s.wt c).condition ≠ .double → (slotOf s.wt c).condition ≠ .crossed → (slotOf s.wt c).location = .inCarrier →
      exec (.pickCarrier b) s = .next (passed .pick .carrier))
    ∧ (Commands .pick .aligner b s → opened → s.wt.robot = none → s.wt.aligner = some c →
      exec (.pickAligner b) s = .next (passed .pick .aligner))
    ∧ (Commands .pick .stage b s → opened → s.wt.robot = none → s.wt.chamber = some c →
      (∀ e ∈ s.rs.table, isSite e.2.state = false) →
      exec (.pickStage b) s = .next
        { passed .pick .stage with
          rs := { s.rs with
            session := { s.rs.session with remembered := some s.rs.session.state, state := .exiting } } })
    ∧ (Commands .place .aligner b s → opened → s.wt.robot = some c → s.wt.aligner = none →
      exec (.placeAligner b) s = .next (passed .place .aligner))
    ∧ (Commands .place .stage b s → opened → s.wt.robot = some c → s.wt.chamber = none → (slotOf s.wt c).aligned = true →
      (s.wt.idCheck = false ∨ (slotOf s.wt c).idState = .idOk ∨ (slotOf s.wt c).idState = .idOverridden) →
      s.pi.focusRecipe ≠ none → s.pi.samplingRecipe ≠ none → s.pi.geometryRecipe ≠ none →
      exec (.placeStage b) s = .next (passed .place .stage))
    ∧ (Commands .place .carrier b s → opened → s.wt.robot = some c → fld (recordWords .mailbox b s)[6] 16 8 = c.val + 1 →
      exec (.placeCarrier b) s = .next (passed .place .carrier))

/-- Checks 3 to 16 in their order: the first that fails gives the reason, the post is recorded WRONG_STATE and the lot record, the
places, the slot records and the channel stand; with no check failing the command is passed (R41, R42). -/
def Obligations.FirstFailingCheckRewrites : Prop :=
  ∀ (c : Instr) (b : WriteBurst) (s : State), writeTarget c = some b → Offers .mailbox .handlerCommand b s →
    let w := recordWords .mailbox b s
    let reason := tableReason (commandVerb w) (commandPlace w) (commandCarrier w).toNat s
    (∀ x, reason = some x → exec c s = .next (rewrittenPost w (recordTag .mailbox b s) x .wrongState b s))
    ∧ (reason = none → ∃ t k, exec c s = .next t ∧ t.wt = { s.wt with channel := .outstanding k }
      ∧ t.pi = (takenPost .mailbox b s).pi ∧ t.traffic = (takenPost .mailbox b s).traffic)

/-- A completion that names no command under way is refused STALE, one with an undefined outcome OUT_OF_RANGE; a DONE completion
makes the held command's move, returns the channel to IDLE, and in CLOSING closes the lot it leaves at rest (R35, R48, R49). The
two moves that reach the session have their own statements. -/
def Obligations.CompletionMovesWafer : Prop :=
  ∀ (b : WriteBurst) (s : State), Offers .completion .completion b s →
    let w := recordWords .completion b s
    ((∀ k, s.wt.channel ≠ .outstanding k) → exec (.completion b) s = .next (refusedPost .completion b .stale s))
    ∧ ∀ k, s.wt.channel = .outstanding k →
      (fld w[0] 0 8 ≠ k.tag.toNat → exec (.completion b) s = .next (refusedPost .completion b .stale s))
      ∧ (fld w[0] 0 8 = k.tag.toNat → fld w[0] 8 8 ≠ 1 → fld w[0] 8 8 ≠ 2 →
        exec (.completion b) s = .next (refusedPost .completion b .outOfRange s))
      ∧ (fld w[0] 0 8 = k.tag.toNat → fld w[0] 8 8 = 1 → ∀ moved : WaferTracker,
        let r := slotOf s.wt k.wafer
        ((k.verb = .pick ∧ k.place = .carrier ∧ moved =
            { withSlot k.wafer { r with location := .onRobot, aligned := false } s.wt with
              robot := some k.wafer, channel := .idle })
          ∨ (k.verb = .pick ∧ k.place = .aligner ∧ moved =
            { withSlot k.wafer { r with location := .onRobot, aligned := true } s.wt with
              aligner := none, robot := some k.wafer, channel := .idle })
          ∨ (k.verb = .place ∧ k.place = .aligner ∧ moved =
            { withSlot k.wafer { r with location := .onAligner } s.wt with
              robot := none, aligner := some k.wafer, channel := .idle })
          ∨ (k.verb = .place ∧ k.place = .carrier ∧ moved =
            { withSlot k.wafer { r with location := if r.visited = true then .returned else .inCarrier } s.wt with
              robot := none, channel := .idle })) →
        (s.wt.lot = .closing ∧ AtRest moved →
          exec (.completion b) s = .next (closeLot { takenPost .completion b s with wt := moved }))
        ∧ (¬ (s.wt.lot = .closing ∧ AtRest moved) →
          exec (.completion b) s = .next { takenPost .completion b s with wt := moved }))

/-- The DONE completion of a PLACE STAGE puts the wafer in the chamber, sets its visited mark, and opens a session for it under the
three stored recipes: selection run over its range, the focus statistics at their starting values, the zones carried or emptied,
ALIGNING (R48, R49, R61, R63, R137, R138). The dispatch sequence counter is left as it is. -/
def Obligations.PlaceStageOpensSession : Prop :=
  ∀ (b : WriteBurst) (s : State) (k : HeldCommand) (f : FocusRecipe) (m : SamplingRecipe) (g : GeometryRecipe),
    Offers .completion .completion b s → s.wt.channel = .outstanding k → k.verb = .place → k.place = .stage →
    fld (recordWords .completion b s)[0] 0 8 = k.tag.toNat → fld (recordWords .completion b s)[0] 8 8 = 1 →
    s.pi.focusRecipe = some f → s.pi.samplingRecipe = some m → s.pi.geometryRecipe = some g →
    let c := k.wafer
    let start := if h : c.val = 0 then 0 else s.wt.ends[c.val - 1]'(by omega)
    let filled := runSelection m start s.wt.ends[c]
      { s.rs with
        session := { s.rs.session with
          chamberSlot := some c, recipe := some { focus := f, sampling := m, geometry := g }
          tallies := WaferTallies.zero, histogram := Vector.replicate 64 0, cadenceIndex := 0, offsetX := 0, offsetY := 0
          aligned := false } }
    exec (.completion b) s = .next
      { takenPost .completion b s with
        wt :=
          { withSlot c { slotOf s.wt c with location := .inChamber, visited := true } s.wt with
            robot := none, chamber := some c, channel := .idle }
        rs := { filled with session := { filled.session with state := .aligning } }
        fe :=
          { s.fe with
            zones := if f.carry = true then
                s.fe.zones.map fun p => (p.1,
                  { trust := .seeded, value := clamp (16 * f.floor) (16 * f.ceiling) p.2.value, count := 0, measured := false })
              else []
            stats :=
              { accepted := 0, residualHigh := 0, residualLow := 0, runCount := 0, runSign := none, driftEvents := 0, calRun := 0
                calSuppressed := 0, calUnmeasured := 0, minFocus := 524272, maxFocus := -524288 } } }

/-- The DONE completion of a PICK STAGE ends the session: every QUEUED entry is counted NOT_REVIEWED but the calibration's, the
wafer report is composed, stored or dropped, WAFER_DONE raised, wafers reviewed counted, and table, queue and lane emptied (R48,
R49, R68, R155). The zone map and the statistics are kept (R148). -/
def Obligations.PickStageEndsSession : Prop :=
  ∀ (b : WriteBurst) (s : State) (k : HeldCommand) (d : CarrierSlot),
    Offers .completion .completion b s → s.wt.channel = .outstanding k → k.verb = .pick → k.place = .stage →
    fld (recordWords .completion b s)[0] 0 8 = k.tag.toNat → fld (recordWords .completion b s)[0] 8 8 = 1 →
    s.rs.session.chamberSlot = some d →
    let c := k.wafer
    let moved := withSlot c { slotOf s.wt c with location := .onRobot, aligned := false } s.wt
    let dropped := (s.rs.table.filter fun p => p.2.state = .queued ∧ p.2.kind ≠ .calibration).length
    let tallies := { s.rs.session.tallies with notReviewed := s.rs.session.tallies.notReviewed + dropped }
    exec (.completion b) s = .next
      { takenPost .completion b s with
        wt :=
          { moved with
            chamber := none, robot := some c, channel := .idle
            tallies := { s.wt.tallies with reviewed := min (s.wt.tallies.reviewed + 1) 255 } }
        rs :=
          { s.rs with
            table := [], queue := [], lane := []
            session := { s.rs.session with
              tallies := tallies, chamberSlot := none, remembered := none, state := .none } }
        ru := raiseIn s.pi.setup.enable .waferDone
          (storeIn s.pi.setup.enable s.pi.setup.threshold true
            (waferReport d (slotOf moved d) { s.rs.session with tallies := tallies } s.fe) s.ru) }

/-- A FAULT completion: the wafer UNKNOWN, the places the command moved between empty, the channel HALTED with the faulted slot and
command, the tally, HANDLING_FAULT, then the handling note stored or dropped; the session is told nothing (R50, R158); and the
fields of the handling note (R170). -/
def Obligations.FaultHaltsTheChannel : Prop :=
  (∀ (b : WriteBurst) (s : State) (k : HeldCommand),
    Offers .completion .completion b s → s.wt.channel = .outstanding k →
    fld (recordWords .completion b s)[0] 0 8 = k.tag.toNat → fld (recordWords .completion b s)[0] 8 8 = 2 →
    exec (.completion b) s = .next
      { takenPost .completion b s with
        wt :=
          { withSlot k.wafer { slotOf s.wt k.wafer with location := .unknown } s.wt with
            robot := none
            aligner := if k.place = .aligner then none else s.wt.aligner
            chamber := if k.place = .stage then none else s.wt.chamber
            channel := .halted k.wafer k.verb k.place
            tallies := { s.wt.tallies with faults := min (s.wt.tallies.faults + 1) 65535 } }
        ru := storeIn s.pi.setup.enable s.pi.setup.threshold false
          (handlingNote k.wafer k.verb k.place (fld (recordWords .completion b s)[0] 16 16) k.tag)
          (raiseIn s.pi.setup.enable .handlingFault s.ru) })
  ∧ ∀ (c : CarrierSlot) (v : Verb) (p : Place) (fault : Nat) (tag : BitVec 8), ∃ w0 w1, handlingNote c v p fault tag = [w0, w1]
    ∧ fld w0 0 8 = 3 ∧ fld w0 8 8 = 2 ∧ fld w0 16 8 = c.val + 1 ∧ fld w0 24 8 = v.code ∧ fld w0 32 8 = p.code
    ∧ fld w1 0 16 = fault % 65536 ∧ fld w1 16 8 = tag.toNat

/-- RELOCATE: its refusals (R51); taken, the wafer's location, marks and place, the channel IDLE, every other slot and place as it
was (R52), and what it tells the session (R53). That a fault at the stage whose session state does not fit it (a PLACE with a session,
a PICK with none in EXITING) sends no notice is the model's choice (log 13): R53 does not give it. -/
def Obligations.RelocateRepairsTheFault : Prop :=
  ∀ (b : WriteBurst) (s : State), Offers .control .relocate b s →
    let w := recordWords .control b s
    ((∀ c v p, s.wt.channel = .halted c v p → fld w[0] 0 8 ≠ c.val + 1) →
      exec (.relocate b) s = .next (refusedPost .control b .wrongState s))
    ∧ ∀ c v p, s.wt.channel = .halted c v p → fld w[0] 0 8 = c.val + 1 →
      let r := slotOf s.wt c
      let bad := fun l : Location => l = .absent ∨ l = .unknown ∨ (l = .inCarrier ∧ r.visited = true)
        ∨ (l = .returned ∧ r.visited = false) ∨ (l = .inChamber ∧ p ≠ .stage) ∨ (l = .onRobot ∧ s.wt.robot ≠ none)
        ∨ (l = .onAligner ∧ s.wt.aligner ≠ none) ∨ (l = .inChamber ∧ s.wt.chamber ≠ none)
      (6 < fld w[0] 8 8 → exec (.relocate b) s = .next (refusedPost .control b .outOfRange s))
      ∧ ∀ l : Location, fld w[0] 8 8 = l.code →
        (bad l → exec (.relocate b) s = .next (refusedPost .control b .outOfRange s))
        ∧ (¬ bad l →
          let moved :=
            { withSlot c { r with location := l, aligned := false, visited := r.visited || l == .inChamber } s.wt with
              robot := if l = .onRobot then some c else s.wt.robot
              aligner := if l = .onAligner then some c else s.wt.aligner
              chamber := if l = .inChamber then some c else s.wt.chamber
              channel := .idle }
          let t := { takenPost .control b s with wt := moved }
          (p = .stage → v = .place → s.rs.session.state = .none → l = .inChamber →
            exec (.relocate b) s = .next (chamberEntry c t))
          ∧ (p = .stage → v = .pick → s.rs.session.state = .exiting → l = .inChamber → ∀ q, s.rs.session.remembered = some q →
            exec (.relocate b) s = .next
              { t with rs := { s.rs with session := { s.rs.session with state := q, remembered := none } } })
          ∧ (p = .stage → v = .pick → s.rs.session.state = .exiting → l ≠ .inChamber →
            exec (.relocate b) s = .next
              (if s.wt.lot = .closing ∧ AtRest moved then closeLot (exitDone t) else exitDone t))
          ∧ ((p ≠ .stage ∨ (v = .place ∧ (s.rs.session.state ≠ .none ∨ l ≠ .inChamber))
              ∨ (v = .pick ∧ s.rs.session.state ≠ .exiting)) →
            exec (.relocate b) s = .next (if s.wt.lot = .closing ∧ AtRest moved then closeLot t else t)))

/-! ## Recipes, the wafer session and selection -/

/-- The focus recipe: refused OUT_OF_RANGE when a field lies outside its range or a cross-check fails, otherwise stored whole, in
every lot state and session state (R56 to R58). -/
def Obligations.FocusRecipeDecided : Prop :=
  ∀ (b : WriteBurst) (s : State), Offers .focusRecipe .focusRecipe b s →
    let w := recordWords .focusRecipe b s
    let nominal := sfld w[0] 0 16
    let floor := sfld w[0] 16 16
    let ceiling := sfld w[0] 32 16
    let x := sfld w[3] 0 32
    let y := sfld w[3] 32 32
    let limit : Int := match s.pi.geometryRecipe with
      | some g => g.radius
      | none => 150000
    let ranges := -2048 ≤ nominal ∧ nominal ≤ 2047 ∧ -2048 ≤ floor ∧ floor ≤ 2047 ∧ -2048 ≤ ceiling ∧ ceiling ≤ 2047
      ∧ 5 ≤ fld w[1] 0 8 ∧ fld w[1] 0 8 ≤ 12 ∧ 1 ≤ fld w[1] 8 8 ∧ fld w[1] 8 8 ≤ 255
      ∧ 3 ≤ fld w[1] 16 8 ∧ fld w[1] 16 8 ≤ 12 ∧ 1 ≤ fld w[1] 24 8 ∧ fld w[1] 24 8 ≤ 255
      ∧ 1 ≤ sfld w[2] 0 16 ∧ -32767 ≤ sfld w[2] 16 16 ∧ sfld w[2] 16 16 ≤ -1
      ∧ fld w[1] 32 4 ≤ 4 ∧ fld w[1] 36 4 ≠ 1 ∧ fld w[1] 40 4 ≤ 1 ∧ 1 ≤ fld w[1] 44 4 ∧ fld w[1] 44 4 ≤ 4
      ∧ -150000 ≤ x ∧ x ≤ 150000 ∧ -150000 ≤ y ∧ y ≤ 150000
    let checks := floor < ceiling ∧ floor ≤ nominal ∧ nominal ≤ ceiling ∧ fld w[1] 16 8 ≤ fld w[1] 0 8
      ∧ ((fld w[1] 0 8 : Int) - 1) * fld w[1] 8 8 ≤ ceiling - floor
      ∧ ((fld w[1] 16 8 : Int) - 1) * fld w[1] 24 8 ≤ ceiling - floor ∧ x * x + y * y ≤ limit * limit
    (¬ (ranges ∧ checks) → exec (.focusRecipe b) s = .next (refusedPost .focusRecipe b .outOfRange s))
    ∧ (ranges ∧ checks → exec (.focusRecipe b) s = .next
      { takenPost .focusRecipe b s with
        pi := { (takenPost .focusRecipe b s).pi with
          focusRecipe := some
            { nominal := nominal, floor := floor, ceiling := ceiling, contrastFloor := fld w[0] 48 16
              wideN := fld w[1] 0 8, wideDz := fld w[1] 8 8, narrowN := fld w[1] 16 8, narrowDz := fld w[1] 24 8
              weightShift := fld w[1] 32 4, driftLimit := fld w[1] 36 4, carry := decide (fld w[1] 40 4 = 1)
              maxSweeps := fld w[1] 44 4, residualHigh := sfld w[2] 0 16, residualLow := sfld w[2] 16 16
              calX := x, calY := y } } })

/-- The sampling recipe: refused OUT_OF_RANGE on an undefined enable, logic or step code or a cap or length outside its range;
otherwise stored whole, cadence entries from the length on as written (R56, R59). -/
def Obligations.SamplingRecipeDecided : Prop :=
  ∀ (b : WriteBurst) (s : State), Offers .samplingRecipe .samplingRecipe b s →
    let w := recordWords .samplingRecipe b s
    let nibbles := fun lo : Nat => ({
      cls := BitVec.ofNat 4 (fld w[1] lo 4), size := BitVec.ofNat 4 (fld w[1] (lo + 4) 4)
      region := BitVec.ofNat 4 (fld w[1] (lo + 8) 4), pass := BitVec.ofNat 4 (fld w[1] (lo + 12) 4) } : Nibbles)
    let good := fld w[0] 0 4 ≤ 1 ∧ fld w[0] 4 4 ≤ 1 ∧ fld w[0] 8 4 ≤ 3 ∧ 1 ≤ fld w[0] 16 16 ∧ fld w[0] 16 16 ≤ 508
      ∧ 1 ≤ fld w[0] 32 8 ∧ fld w[0] 32 8 ≤ 16
      ∧ ∀ j, j < fld w[0] 32 8 → 1 ≤ fld w[2] (4 * j) 4 ∧ fld w[2] (4 * j) 4 ≤ 3
    (¬ good → exec (.samplingRecipe b) s = .next (refusedPost .samplingRecipe b .outOfRange s))
    ∧ (good → exec (.samplingRecipe b) s = .next
      { takenPost .samplingRecipe b s with
        pi := { (takenPost .samplingRecipe b s).pi with
          samplingRecipe := some
            { filter1 := { enable := decide (fld w[0] 0 4 = 1), pattern := nibbles 0, mask := nibbles 16 }
              filter2 := { enable := decide (fld w[0] 4 4 = 1), pattern := nibbles 32, mask := nibbles 48 }
              logic := if fld w[0] 8 4 = 0 then .or else if fld w[0] 8 4 = 1 then .and else if fld w[0] 8 4 = 2 then .nor
                else .nand
              cap := fld w[0] 16 16, cadenceLength := fld w[0] 32 8
              cadence := Vector.ofFn fun j => BitVec.ofNat 4 (fld w[2] (4 * j.val) 4) } } })

/-- The geometry recipe: refused OUT_OF_RANGE when a field lies outside its range or the stored focus recipe's calibration site lies
outside the new radius limit; otherwise stored whole (R56, R60). -/
def Obligations.GeometryRecipeDecided : Prop :=
  ∀ (b : WriteBurst) (s : State), Offers .geometryRecipe .geometryRecipe b s →
    let w := recordWords .geometryRecipe b s
    let offset : Fin 6 → Int := fun i => if i.val < 4 then sfld w[3] (16 * i.val) 16 else sfld w[4] (16 * (i.val - 4)) 16
    let good := 1000 ≤ fld w[0] 0 32 ∧ fld w[0] 0 32 ≤ 40000 ∧ 1000 ≤ fld w[0] 32 32 ∧ fld w[0] 32 32 ≤ 40000
      ∧ -150000 ≤ sfld w[1] 0 32 ∧ sfld w[1] 0 32 ≤ 150000 ∧ -150000 ≤ sfld w[1] 32 32 ∧ sfld w[1] 32 32 ≤ 150000
      ∧ 100000 ≤ fld w[2] 0 32 ∧ fld w[2] 0 32 ≤ 150000 ∧ 1 ≤ fld w[2] 32 16 ∧ fld w[2] 32 16 ≤ 1000
      ∧ fld w[2] 48 6 ≠ 0 ∧ (∀ i, -2000 ≤ offset i ∧ offset i ≤ 2000)
      ∧ ∀ f, s.pi.focusRecipe = some f → f.calX * f.calX + f.calY * f.calY ≤ (fld w[2] 0 32 : Int) * fld w[2] 0 32
    (¬ good → exec (.geometryRecipe b) s = .next (refusedPost .geometryRecipe b .outOfRange s))
    ∧ (good → exec (.geometryRecipe b) s = .next
      { takenPost .geometryRecipe b s with
        pi := { (takenPost .geometryRecipe b s).pi with
          geometryRecipe := some
            { pitchX := fld w[0] 0 32, pitchY := fld w[0] 32 32, originX := sfld w[1] 0 32, originY := sfld w[1] 32 32
              radius := fld w[2] 0 32, tolerance := fld w[2] 32 16, modes := BitVec.ofNat 6 (fld w[2] 48 6)
              offsets := Vector.ofFn offset } } })

/-- ALIGNMENT by session state: its two refusals, the move to ACTIVE, and the replacement of the offsets (R64); that one taken in ACTIVE
or ENDING leaves the session aligned mark as it is, is the model's choice between R62 and R64 (log 24). ACK_FLAGS: refused
OUT_OF_RANGE when its set holds anything but REPORT_LOST; otherwise REPORT_LOST is cleared when it is in the set (R163). A column
capability record is always taken and replaces the set (R131). -/
def Obligations.AlignmentFlagsAndCapability : Prop :=
  (∀ (b : WriteBurst) (s : State), Offers .control .alignment b s →
    let w := recordWords .control b s
    let q := s.rs.session.state
    let inside := -2000 ≤ sfld w[0] 0 32 ∧ sfld w[0] 0 32 ≤ 2000 ∧ -2000 ≤ sfld w[0] 32 32 ∧ sfld w[0] 32 32 ≤ 2000
    (q = .none ∨ q = .exiting → exec (.alignment b) s = .next (refusedPost .control b .wrongState s))
    ∧ (q ≠ .none → q ≠ .exiting → ¬ inside → exec (.alignment b) s = .next (refusedPost .control b .outOfRange s))
    ∧ (q = .aligning → inside → exec (.alignment b) s = .next
      { takenPost .control b s with
        rs := { s.rs with session := { s.rs.session with
          offsetX := sfld w[0] 0 32, offsetY := sfld w[0] 32 32, aligned := true, state := .active } } })
    ∧ (q = .active ∨ q = .ending → inside → exec (.alignment b) s = .next
      { takenPost .control b s with
        rs := { s.rs with session := { s.rs.session with offsetX := sfld w[0] 0 32, offsetY := sfld w[0] 32 32 } } }))
  ∧ (∀ (b : WriteBurst) (s : State), Offers .control .ackFlags b s →
    let w := recordWords .control b s
    ((∃ i, 0 < i ∧ i < 64 ∧ w[0].getLsbD i = true) → exec (.ackFlags b) s = .next (refusedPost .control b .outOfRange s))
    ∧ ((∀ i, 0 < i → i < 64 → w[0].getLsbD i = false) → exec (.ackFlags b) s = .next
      { takenPost .control b s with
        ru := { s.ru with reportLost := if w[0].getLsbD 0 = true then false else s.ru.reportLost } }))
  ∧ ∀ (b : WriteBurst) (s : State), Offers .capability .capability b s →
    exec (.columnCapability b) s = .next
      { takenPost .capability b s with
        fe := { s.fe with capability := BitVec.ofNat 6 (fld (recordWords .capability b s)[0] 0 6) } }

/-- END_WAFER: refused outside ALIGNING and ACTIVE; otherwise every QUEUED entry becomes NOT_REVIEWED, both lists are emptied, a
RECALLING entry returns to DISPATCHED with its timer running on, and the session is ENDING (R65). -/
def Obligations.EndWaferDecided : Prop :=
  ∀ (b : WriteBurst) (s : State), Offers .control .endWafer b s →
    let q := s.rs.session.state
    (q ≠ .aligning → q ≠ .active → exec (.endWafer b) s = .next (refusedPost .control b .wrongState s))
    ∧ (q = .aligning ∨ q = .active → SiteAndLane s →
      let dropped := (s.rs.table.filter fun p => p.2.state = .queued ∧ p.2.kind ≠ .calibration).length
      exec (.endWafer b) s = .next
        { takenPost .control b s with
          rs := { s.rs with
            table := s.rs.table.map fun p => (p.1, { p.2 with
              state := if p.2.state = .queued then .notReviewed else if p.2.state = .recalling then .dispatched else p.2.state })
            queue := [], lane := []
            session := { s.rs.session with
              state := .ending
              tallies := { s.rs.session.tallies with notReviewed := s.rs.session.tallies.notReviewed + dropped } } } })

/-- URGENT: its refusals in their order, the promotion of a QUEUED REGULAR entry, and the new entry at the lowest open tag, each
joining the lane's tail (R78, R81 to R83); and what a join does to a DISPATCHED REGULAR entry (R105). -/
def Obligations.UrgentDecided : Prop :=
  (∀ (b : WriteBurst) (s : State), Offers .control .urgent b s →
    let i := fld (recordWords .control b s)[0] 0 16
    let running := s.rs.session.state = .aligning ∨ s.rs.session.state = .active
    let mine := ∃ c, s.rs.session.chamberSlot = some c ∧ rangeStart s.wt c ≤ i ∧ i < rangeEnd s.wt c
      ∧ Sparse.lookup s.rs.defects i ≠ none
    let taken := fun r : RevisitScheduler => exec (.urgent b) s = .next { takenPost .control b s with rs := recallOnJoin r }
    let refused := fun o => exec (.urgent b) s = .next (refusedPost .control b o s)
    (¬ running → refused .wrongState)
    ∧ (running → ¬ mine → refused .notInWafer)
    ∧ (running → mine → ∀ tag e,
      s.rs.table.find? (fun p => decide (p.2.defect = some i ∧ p.2.kind ≠ .calibration)) = some (tag, e) →
      (isSite e.state = true ∨ (e.state = .queued ∧ e.kind = .urgent) → refused .already)
      ∧ (e.state = .retired ∨ e.state = .failed ∨ e.state = .notReviewed → refused .alreadyDone)
      ∧ (e.state = .queued → e.kind = .regular → 4 ≤ laneOccupancy s.rs → refused .laneFull)
      ∧ (e.state = .queued → e.kind = .regular → laneOccupancy s.rs < 4 → Sparse.lookup s.rs.table tag = some e →
        taken { s.rs with
          queue := s.rs.queue.filter (· ≠ tag), lane := s.rs.lane ++ [tag]
          table := Sparse.insert s.rs.table tag { e with kind := .urgent } }))
    ∧ (running → mine → (∀ p ∈ s.rs.table, p.2.defect = some i → p.2.kind = .calibration) →
      (4 ≤ laneOccupancy s.rs → refused .laneFull)
      ∧ (laneOccupancy s.rs < 4 → (∀ tag, tag ≤ s.rs.session.tallies.selected + 2 → Sparse.lookup s.rs.table tag ≠ none) →
        refused .tableFull)
      ∧ (laneOccupancy s.rs < 4 → ∀ tag, tag ≤ s.rs.session.tallies.selected + 2 → Sparse.lookup s.rs.table tag = none →
        (∀ t, t < tag → Sparse.lookup s.rs.table t ≠ none) →
        taken { s.rs with
          lane := s.rs.lane ++ [tag]
          table := Sparse.insert s.rs.table tag
            { kind := .urgent, defect := some i, state := .queued, attempts := 0, sweeps := 0
              flags :=
                { restarted := false, uncorrected := false, positionOff := false, focusFallback := false, focusAtLimit := false
                  clamped := false }
              sequence := none, target := none }
          session := { s.rs.session with
            tallies := { s.rs.session.tallies with urgentAdded := s.rs.session.tallies.urgentAdded + 1 } } })))
  ∧ ∀ r : RevisitScheduler,
    ((∀ p ∈ r.table, isSite p.2.state = false) → recallOnJoin r = r)
    ∧ ∀ tag e, siteEntry r = some (tag, e) → Sparse.lookup r.table tag = some e →
      (e.kind = .regular ∧ e.state = .dispatched →
        recallOnJoin r = { r with table := Sparse.insert r.table tag { e with state := .recalling } })
      ∧ (¬ (e.kind = .regular ∧ e.state = .dispatched) → recallOnJoin r = r)

/-- TABLE_LOAD: its refusals, and the cursor and count it sets (R89). A table stream line: its refusals in their order, and the
entries it writes at the cursor, the cursor and the count it leaves (R90, R91). -/
def Obligations.TableLoadAndStream : Prop :=
  (∀ (b : WriteBurst) (s : State), Offers .control .tableLoad b s →
    let start := fld (recordWords .control b s)[0] 0 16
    let count := fld (recordWords .control b s)[0] 16 16
    let busy := s.wt.chamber ≠ none ∨ s.rs.session.state ≠ .none
    let inside := start ≤ 1023 ∧ 1 ≤ count ∧ count ≤ 1024 ∧ start + count ≤ 1024
    (busy → exec (.tableLoad b) s = .next (refusedPost .control b .tableBusy s))
    ∧ (¬ busy → ¬ inside → exec (.tableLoad b) s = .next (refusedPost .control b .outOfRange s))
    ∧ (¬ busy → inside → exec (.tableLoad b) s = .next
      { takenPost .control b s with rs := { s.rs with cursor := start, remaining := count } }))
  ∧ ∀ (b : WriteBurst) (s : State), FullClaim .tableStream b s →
    let w := claimWords .tableStream b s
    let busy := s.wt.chamber ≠ none ∨ s.rs.session.state ≠ .none
    let m := min 8 s.rs.remaining
    let bad := ∃ j : Fin 8, j.val < m ∧ w[j].getLsbD 32 = true
      ∧ ¬ (-500 ≤ sfld w[j] 0 16 ∧ sfld w[j] 0 16 ≤ 500 ∧ -500 ≤ sfld w[j] 16 16 ∧ sfld w[j] 16 16 ≤ 500)
    (s.rs.remaining = 0 → exec (.tableStreamLine b) s = .next (refusedClaim .tableStream b .wrongState s))
    ∧ (s.rs.remaining ≠ 0 → busy → exec (.tableStreamLine b) s = .next (refusedClaim .tableStream b .tableBusy s))
    ∧ (s.rs.remaining ≠ 0 → ¬ busy → bad → exec (.tableStreamLine b) s = .next (refusedClaim .tableStream b .outOfRange s))
    ∧ (s.rs.remaining ≠ 0 → ¬ busy → ¬ bad → ∃ table,
      exec (.tableStreamLine b) s = .next
        { takenClaim .tableStream b s with
          rs := { s.rs with corrections := table, cursor := s.rs.cursor + m, remaining := s.rs.remaining - m } }
      ∧ (∀ j : Fin 8, j.val < m → Sparse.lookup table (s.rs.cursor + j.val) =
        if w[j].getLsbD 32 = true then some (sfld w[j] 0 16, sfld w[j] 16 16) else none)
      ∧ ∀ i, i < s.rs.cursor ∨ s.rs.cursor + m ≤ i → Sparse.lookup table i = Sparse.lookup s.rs.corrections i)

/-- A defect entry for index i: the three refusals of R72 in their order; taken, its fields stand at i, and every other index reads
as before (R72, R73). -/
def Obligations.DefectEntryDecided : Prop :=
  ∀ (i : Fin 4096) (b : WriteBurst) (s : State), FullClaim (.defect i) b s →
    let w := claimWords (.defect i) b s
    let open' := s.wt.lot = .loading ∨ s.wt.lot = .opened
    let locked := ∃ c : CarrierSlot, rangeStart s.wt c ≤ i.val ∧ i.val < rangeEnd s.wt c
      ∧ ((slotOf s.wt c).location = .inChamber ∨ (slotOf s.wt c).visited = true)
    let inside := -16 ≤ sfld w[0] 0 8 ∧ sfld w[0] 0 8 ≤ 15 ∧ -16 ≤ sfld w[0] 8 8 ∧ sfld w[0] 8 8 ≤ 15
    (¬ open' → exec (.defectEntry i b) s = .next (refusedClaim (.defect i) b .wrongState s))
    ∧ (open' → locked → exec (.defectEntry i b) s = .next (refusedClaim (.defect i) b .listLocked s))
    ∧ (open' → ¬ locked → ¬ inside → exec (.defectEntry i b) s = .next (refusedClaim (.defect i) b .outOfRange s))
    ∧ (open' → ¬ locked → inside → ∃ store,
      exec (.defectEntry i b) s = .next { takenClaim (.defect i) b s with rs := { s.rs with defects := store } }
      ∧ Sparse.lookup store i.val = some
        { column := sfld w[0] 0 8, row := sfld w[0] 8 8, inX := fld w[0] 16 16, inY := fld w[0] 32 16
          attributes :=
            { cls := BitVec.ofNat 4 (fld w[0] 48 4), size := BitVec.ofNat 4 (fld w[0] 52 4)
              region := BitVec.ofNat 4 (fld w[0] 56 4), pass := BitVec.ofNat 4 (fld w[0] 60 4) }
          source := BitVec.ofNat 32 (fld w[1] 0 32) }
      ∧ ∀ j, j ≠ i.val → Sparse.lookup store j = Sparse.lookup s.rs.defects j)

/-- An enabled filter matches when every mask bit that is set finds the attribute's bit equal to the pattern's (R74); the verdict
combines the two results by the logic, and is TRUE with both filters disabled (R75). -/
def Obligations.FilterVerdict : Prop :=
  (∀ (f : SamplingFilter) (a : Nibbles), filterMatches f a = true ↔
    ∀ i, i < 4 →
      (f.mask.cls.getLsbD i = true → a.cls.getLsbD i = f.pattern.cls.getLsbD i)
      ∧ (f.mask.size.getLsbD i = true → a.size.getLsbD i = f.pattern.size.getLsbD i)
      ∧ (f.mask.region.getLsbD i = true → a.region.getLsbD i = f.pattern.region.getLsbD i)
      ∧ (f.mask.pass.getLsbD i = true → a.pass.getLsbD i = f.pattern.pass.getLsbD i))
  ∧ ∀ (m : SamplingRecipe) (a : Nibbles),
    let x := m.filter1.enable = true → filterMatches m.filter1 a = true
    let y := m.filter2.enable = true → filterMatches m.filter2 a = true
    (m.filter1.enable = false → m.filter2.enable = false → verdict m a = true)
    ∧ (m.filter1.enable = true ∨ m.filter2.enable = true →
      (verdict m a = true ↔
        (m.logic = .or ∧ (x ∨ y)) ∨ (m.logic = .and ∧ x ∧ y) ∨ (m.logic = .nor ∧ ¬ x ∧ ¬ y) ∨ (m.logic = .nand ∧ (¬ x ∨ ¬ y))))

/-- Selection over a range: the first passing indices up to the cap get the tags 0, 1, 2, … and stand in the queue in that order;
the four tallies count the range out (R76). The store and the lane are left as they were. That a table or queue that is not empty
is built anew is the model's choice (log 20): R68 and R87 leave both empty at every selection. -/
def Obligations.SelectionTakesTheFirstPassing : Prop :=
  ∀ (m : SamplingRecipe) (start stop : Nat) (r : RevisitScheduler),
    r.session.tallies.selected = 0 → r.session.tallies.skipped = 0 → r.session.tallies.overCap = 0 →
    r.session.tallies.absent = 0 →
    let range := List.range' start (stop - start)
    let absent := range.filter fun i => Sparse.lookup r.defects i = none
    let passing := range.filter fun i => ((Sparse.lookup r.defects i).map fun d => verdict m d.attributes) = some true
    let skipped := range.filter fun i => ((Sparse.lookup r.defects i).map fun d => verdict m d.attributes) = some false
    let chosen := passing.take m.cap
    runSelection m start stop r =
        { r with
          table := chosen.mapIdx fun tag i => (tag,
            { kind := .regular, defect := some i, state := .queued, attempts := 0, sweeps := 0
              flags :=
                { restarted := false, uncorrected := false, positionOff := false, focusFallback := false, focusAtLimit := false
                  clamped := false }
              sequence := none, target := none })
          queue := List.range chosen.length
          session := { r.session with
            tallies := { r.session.tallies with
              selected := chosen.length, skipped := skipped.length, overCap := passing.length - chosen.length
              absent := absent.length } } }
      ∧ chosen.length + skipped.length + (passing.length - chosen.length) + absent.length = stop - start
      ∧ chosen.length ≤ m.cap

/-! ## Coordinates and the revisit cycle -/

/-- The zone of a stage target: the cell of 25000 µm it falls in, clamped into 0..11 on each axis (R97). -/
def Obligations.ZoneOfTarget : Prop :=
  ∀ x y : Int,
    (zoneOf (x, y)).1 < 12 ∧ (zoneOf (x, y)).2 < 12
    ∧ (∀ k : Nat, k < 12 → -150000 + 25000 * k ≤ x → x < -150000 + 25000 * (k + 1) → (zoneOf (x, y)).1 = k)
    ∧ (∀ k : Nat, k < 12 → -150000 + 25000 * k ≤ y → y < -150000 + 25000 * (k + 1) → (zoneOf (x, y)).2 = k)
    ∧ (x < -150000 → (zoneOf (x, y)).1 = 0) ∧ (150000 ≤ x → (zoneOf (x, y)).1 = 11)
    ∧ (y < -150000 → (zoneOf (x, y)).2 = 0) ∧ (150000 ≤ y → (zoneOf (x, y)).2 = 11)

/-- A STAGE read of the target slot in ACTIVE with the site free: IDLE with both lists empty; otherwise the head of the lane, or of
the queue when the lane is empty, is taken, its target computed and tested, and it is dispatched with the next sequence and served
MOVE, or fails OFF_WAFER and the read goes on as it would from the state that leaves (R94 to R97, R100, R101, R119). -/
def Obligations.DispatchSendsTheNext : Prop :=
  ∀ (r : ReadBurst) (s : State) (w : WaferRecipe), ReadsSlot .target r s → roleOf s.pi r.header = .stage →
    s.rs.session.state = .active → (∀ p ∈ s.rs.table, isSite p.2.state = false) → s.rs.session.recipe = some w →
    (s.rs.lane = [] → s.rs.queue = [] →
      exec (.targetRead r) s = .next { s with traffic := recordTraffic r (targetRecord .idle) })
    ∧ ∀ (tag : Nat) (popped : RevisitScheduler) (e : RevisitEntry) (x y : Int) (uncorrected : Bool) (source : BitVec 32),
      (∃ rest, (s.rs.lane = tag :: rest ∧ popped = { s.rs with lane := rest })
        ∨ (s.rs.lane = [] ∧ s.rs.queue = tag :: rest ∧ popped = { s.rs with queue := rest })) →
      Sparse.lookup s.rs.table tag = some e →
      (e.kind = .calibration ∧ e.defect = none ∧ x = w.focus.calX ∧ y = w.focus.calY ∧ uncorrected = false ∧ source = 0)
        ∨ (e.kind ≠ .calibration ∧ ∃ i d, e.defect = some i ∧ Sparse.lookup s.rs.defects i = some d ∧ source = d.source
          ∧ ∃ dx dy, Sparse.lookup s.rs.corrections ((d.column + 16) * 32 + (d.row + 16)).toNat =
              (if uncorrected = true then none else some (dx, dy))
            ∧ (uncorrected = true → dx = 0 ∧ dy = 0)
            ∧ x = s.rs.session.offsetX + w.geometry.originX + d.column * w.geometry.pitchX + d.inX + dx
            ∧ y = s.rs.session.offsetY + w.geometry.originY + d.row * w.geometry.pitchY + d.inY + dy) →
      (x * x + y * y ≤ (w.geometry.radius : Int) * w.geometry.radius →
        let q := s.rs.session.sequence + 1
        exec (.targetRead r) s = .next
          { s with
            traffic := recordTraffic r (targetRecord (.move q tag e.kind source x y uncorrected e.flags.restarted))
            rs := { popped with
              session := { s.rs.session with sequence := q }
              table := Sparse.insert s.rs.table tag { e with
                sequence := some q, target := some (x, y), state := .dispatched
                flags := { e.flags with uncorrected := uncorrected } }
              timer := if s.pi.setup.arrivalLimit = 0 then .stopped else .running s.pi.setup.arrivalLimit 0 true }
            fe := { s.fe with
              context := some
                { tag := tag, kind := e.kind, zone := zoneOf (x, y), sequence := none, step := none, prediction := none
                  plan := none, sweepNumber := none, image := none } } })
      ∧ ((w.geometry.radius : Int) * w.geometry.radius < x * x + y * y → e.kind ≠ .calibration →
        exec (.targetRead r) s = exec (.targetRead r)
          { s with
            rs := { popped with
              table := Sparse.insert s.rs.table tag { e with state := .failed }
              session := { s.rs.session with
                tallies := { s.rs.session.tallies with
                  failed := s.rs.session.tallies.failed + 1
                  failedBy := { s.rs.session.tallies.failedBy with
                    offWafer := s.rs.session.tallies.failedBy.offWafer + 1 } } } }
            ru := raiseIn s.pi.setup.enable .revisitFailed s.ru })

/-- What every other read of the target slot is served, and that only a STAGE read of a RECALLING entry changes anything: it serves
the recall (R98, R99, R102, R106); and the fields of the target record (R169). -/
def Obligations.TargetReadsServed : Prop :=
  (∀ (r : ReadBurst) (s : State), ReadsSlot .target r s →
    let served := fun d : TargetDirective => exec (.targetRead r) s = .next { s with traffic := recordTraffic r (targetRecord d) }
    let q := s.rs.session.state
    (q = .none → served .idle)
    ∧ (q = .aligning ∨ q = .exiting → served .hold)
    ∧ ((∀ p ∈ s.rs.table, isSite p.2.state = false) → q = .ending ∨ (q = .active ∧ roleOf s.pi r.header ≠ .stage) → served .idle)
    ∧ ∀ tag e sequence x y, siteEntry s.rs = some (tag, e) → q = .active ∨ q = .ending → e.sequence = some sequence →
      e.target = some (x, y) →
      (∀ source, e.state = .dispatched →
        (e.defect = none ∧ source = 0) ∨ (∃ i d, e.defect = some i ∧ Sparse.lookup s.rs.defects i = some d ∧ source = d.source) →
        served (.move sequence tag e.kind source x y e.flags.uncorrected e.flags.restarted))
      ∧ (e.state = .arrived ∨ e.state = .focusing ∨ e.state = .focused → served (.stay sequence tag e.flags.positionOff))
      ∧ (e.state = .recalling → roleOf s.pi r.header ≠ .stage → served (.recall sequence))
      ∧ (e.state = .recalling → q = .active → roleOf s.pi r.header = .stage → Sparse.lookup s.rs.table tag = some e →
        exec (.targetRead r) s = .next
          { s with
            traffic := recordTraffic r (targetRecord (.recall sequence))
            rs := { s.rs with
              timer := .stopped, queue := tag :: s.rs.queue
              table := Sparse.insert s.rs.table tag { e with state := .queued, flags := { e.flags with restarted := true } }
              session := { s.rs.session with
                tallies := { s.rs.session.tallies with restarts := min (s.rs.session.tallies.restarts + 1) 65535 } } }
            fe := { s.fe with context := none } }))
  ∧ ∀ (q : BitVec 16) (tag : Nat) (k : RevisitKind) (source : BitVec 32) (x y : Int) (u v p : Bool),
    fld (targetRecord .idle)[0] 0 8 = 1 ∧ fld (targetRecord .hold)[0] 0 8 = 2
    ∧ (let l := targetRecord (.move q tag k source x y u v)
      fld l[0] 0 8 = 3 ∧ fld l[0] 16 16 = q.toNat ∧ fld l[0] 32 16 = tag % 65536 ∧ fld l[0] 48 8 = k.code
      ∧ fld l[0] 56 1 = v.toNat ∧ fld l[0] 57 1 = u.toNat ∧ fld l[1] 0 32 = source.toNat
      ∧ (-2147483648 ≤ x → x < 2147483648 → sfld l[2] 0 32 = x) ∧ (-2147483648 ≤ y → y < 2147483648 → sfld l[2] 32 32 = y))
    ∧ (let l := targetRecord (.stay q tag p)
      fld l[0] 0 8 = 4 ∧ fld l[0] 16 16 = q.toNat ∧ fld l[0] 32 16 = tag % 65536 ∧ fld l[0] 58 1 = p.toNat)
    ∧ (fld (targetRecord (.recall q))[0] 0 8 = 5 ∧ fld (targetRecord (.recall q))[0] 16 16 = q.toNat)

/-- The arrival record: STALE unless it names the DISPATCHED or RECALLING site entry, OUT_OF_RANGE on an undefined settle status;
otherwise the entry is ARRIVED with POSITION_OFF by the tolerance, and the timer restarts with the focus limit (R103, R104). -/
def Obligations.ArrivalDecided : Prop :=
  ∀ (b : WriteBurst) (s : State), Offers .arrival .arrival b s →
    let w := recordWords .arrival b s
    let q := BitVec.ofNat 16 (fld w[0] 0 16)
    ((∀ p ∈ s.rs.table, isSite p.2.state = false) → exec (.arrival b) s = .next (refusedPost .arrival b .stale s))
    ∧ ∀ tag e, siteEntry s.rs = some (tag, e) →
      let named := (e.state = .dispatched ∨ e.state = .recalling) ∧ e.sequence = some q
      (¬ named → exec (.arrival b) s = .next (refusedPost .arrival b .stale s))
      ∧ (named → fld w[0] 16 8 ≠ 1 → fld w[0] 16 8 ≠ 2 → exec (.arrival b) s = .next (refusedPost .arrival b .outOfRange s))
      ∧ (named → fld w[0] 16 8 = 1 ∨ fld w[0] 16 8 = 2 → ∀ (recipe : WaferRecipe) (x y : Int) (off : Bool),
        s.rs.session.recipe = some recipe → e.target = some (x, y) → Sparse.lookup s.rs.table tag = some e →
        (off = true ↔ (recipe.geometry.tolerance : Int) < |sfld w[1] 0 32 - x|
          ∨ (recipe.geometry.tolerance : Int) < |sfld w[1] 32 32 - y| ∨ fld w[0] 16 8 = 2) →
        exec (.arrival b) s = .next
          { takenPost .arrival b s with
            rs := { s.rs with
              table := Sparse.insert s.rs.table tag { e with
                state := .arrived, flags := { e.flags with positionOff := e.flags.positionOff || off } }
              timer := if s.pi.setup.focusLimit = 0 then .stopped else .running s.pi.setup.focusLimit 0 true }
            fe := { s.fe with context := s.fe.context.map fun c => { c with sequence := some q } } })

/-- The step timer's expiries, by the state of the site entry (R66, R109 to R111), and what a failure does (R114). With the timer
stopped, with no site entry, or with the site entry in another row's state, nothing expires (the model's choice, log 3). -/
def Obligations.ExpiriesOfTheStepTimer : Prop :=
  (∀ (s : State) (c : Instr), c = .arrivalStepExpiry ∨ c = .recallExpiry ∨ c = .focusStepExpiry ∨ c = .imageStepExpiry →
    s.rs.timer = .stopped ∨ (∀ p ∈ s.rs.table, isSite p.2.state = false)
      ∨ (∃ tag e, siteEntry s.rs = some (tag, e) ∧ (c = .arrivalStepExpiry → e.state ≠ .dispatched)
        ∧ (c = .recallExpiry → e.state ≠ .recalling) ∧ (c = .focusStepExpiry → e.state ≠ .arrived ∧ e.state ≠ .focusing)
        ∧ (c = .imageStepExpiry → e.state ≠ .focused)) →
    exec c s = .next { s with traffic := { downWrite := none, upWrite := none, downRead := none, upRead := none } })
  ∧ (∀ (s : State) (tag : Nat) (e : RevisitEntry), s.rs.timer ≠ .stopped → siteEntry s.rs = some (tag, e) →
    Sparse.lookup s.rs.table tag = some e →
    let idle : State := { s with traffic := { downWrite := none, upWrite := none, downRead := none, upRead := none } }
    let left := fun (e' : RevisitEntry) => ({ idle with
      rs := { s.rs with timer := .stopped, table := Sparse.insert s.rs.table tag e' }
      fe := { s.fe with context := none } } : State)
    let counted := { e with attempts := e.attempts + 1 }
    (e.state = .dispatched → e.attempts + 1 < s.pi.setup.maxAttempts → s.rs.session.state ≠ .ending →
      let t := left { counted with state := .queued }
      (e.kind = .regular →
        exec .arrivalStepExpiry s = .next { t with rs := { t.rs with queue := tag :: s.rs.queue } })
      ∧ (e.kind ≠ .regular →
        exec .arrivalStepExpiry s = .next { t with rs := { t.rs with lane := tag :: s.rs.lane } }))
    ∧ (e.state = .dispatched → e.attempts + 1 < s.pi.setup.maxAttempts → s.rs.session.state = .ending →
      let t := left { counted with state := .notReviewed }
      exec .arrivalStepExpiry s = .next
        { t with rs := { t.rs with session := { s.rs.session with
          tallies := { s.rs.session.tallies with
            notReviewed := s.rs.session.tallies.notReviewed + if e.kind = .calibration then 0 else 1 } } } })
    ∧ (e.state = .dispatched → s.pi.setup.maxAttempts ≤ e.attempts + 1 →
      exec .arrivalStepExpiry s = .next
        (failEntry tag .arrivalTimeout
          { idle with rs := { s.rs with table := Sparse.insert s.rs.table tag counted } }))
    ∧ (e.state = .recalling →
      let t := left { e with state := .queued, flags := { e.flags with restarted := true } }
      exec .recallExpiry s = .next
        { t with rs := { t.rs with
          queue := tag :: s.rs.queue
          session := { s.rs.session with
            tallies := { s.rs.session.tallies with restarts := min (s.rs.session.tallies.restarts + 1) 65535 } } } })
    ∧ (e.state = .arrived ∨ e.state = .focusing → exec .focusStepExpiry s = .next (failEntry tag .focusTimeout idle))
    ∧ (e.state = .focused → exec .imageStepExpiry s = .next (failEntry tag .imageTimeout idle)))
  ∧ ∀ (s : State) (tag : Nat) (e : RevisitEntry) (reason : FailReason), Sparse.lookup s.rs.table tag = some e →
    isSite e.state = true →
    let t := s.rs.session.tallies
    let ends := fun (tallies : WaferTallies) (stats : FocusStats) => ({ s with
      rs := { s.rs with
        timer := .stopped, table := Sparse.insert s.rs.table tag { e with state := .failed }
        session := { s.rs.session with tallies := tallies } }
      fe := { s.fe with context := none, stats := stats }
      ru := raiseIn s.pi.setup.enable .revisitFailed s.ru } : State)
    (e.kind = .calibration →
      failEntry tag reason s = ends t { s.fe.stats with calUnmeasured := min (s.fe.stats.calUnmeasured + 1) 255 })
    ∧ (e.kind ≠ .calibration →
      failEntry tag reason s = ends { t with
        failed := t.failed + 1
        failedBy :=
          { arrivalTimeout := t.failedBy.arrivalTimeout + if reason = .arrivalTimeout then 1 else 0
            focusTimeout := t.failedBy.focusTimeout + if reason = .focusTimeout then 1 else 0
            imageTimeout := t.failedBy.imageTimeout + if reason = .imageTimeout then 1 else 0
            offWafer := t.failedBy.offWafer + if reason = .offWafer then 1 else 0
            noMode := t.failedBy.noMode + if reason = .noMode then 1 else 0
            imageFault := t.failedBy.imageFault + if reason = .imageFault then 1 else 0 } } s.fe.stats)

/-- The result record: STALE unless it names the FOCUSED site entry, OUT_OF_RANGE on an undefined outcome or a class above 63 with
CLASSIFIED; IMAGE_FAULT fails the entry, CLASSIFIED and NOT_FOUND retire it and count it, a calibration only as unmeasured
(R112, R113, R130). -/
def Obligations.ResultDecided : Prop :=
  ∀ (b : WriteBurst) (s : State), Offers .result .result b s →
    let w := recordWords .result b s
    let q := BitVec.ofNat 16 (fld w[0] 0 16)
    let o := fld w[0] 16 8
    let c := fld w[0] 24 8
    ((∀ p ∈ s.rs.table, isSite p.2.state = false) → exec (.result b) s = .next (refusedPost .result b .stale s))
    ∧ ∀ tag e, siteEntry s.rs = some (tag, e) →
      let named := e.state = .focused ∧ e.sequence = some q
      (¬ named → exec (.result b) s = .next (refusedPost .result b .stale s))
      ∧ (named → o < 1 ∨ 3 < o ∨ (o = 1 ∧ 63 < c) → exec (.result b) s = .next (refusedPost .result b .outOfRange s))
      ∧ (named → o = 3 → exec (.result b) s = .next (failEntry tag .imageFault (takenPost .result b s)))
      ∧ (named → (o = 1 ∧ c ≤ 63) ∨ o = 2 → Sparse.lookup s.rs.table tag = some e →
        let t := s.rs.session.tallies
        let ends := fun (tallies : WaferTallies) (histogram : Vector Nat 64) (stats : FocusStats) => ({ takenPost .result b s with
          rs := { s.rs with
            timer := .stopped, table := Sparse.insert s.rs.table tag { e with state := .retired }
            session := { s.rs.session with tallies := tallies, histogram := histogram } }
          fe := { s.fe with context := none, stats := stats } } : State)
        (e.kind = .calibration → exec (.result b) s = .next
          (ends t s.rs.session.histogram { s.fe.stats with calUnmeasured := min (s.fe.stats.calUnmeasured + 1) 255 }))
        ∧ (e.kind ≠ .calibration → o = 2 → exec (.result b) s = .next
          (ends { t with notFound := t.notFound + 1 } s.rs.session.histogram s.fe.stats))
        ∧ (e.kind ≠ .calibration → o = 1 → ∃ histogram : Vector Nat 64,
          (∀ i : Fin 64, histogram[i] = s.rs.session.histogram[i] + if i.val = c then 1 else 0)
          ∧ exec (.result b) s = .next (ends { t with classified := t.classified + 1 } histogram s.fe.stats)))

/-! ## Focus -/

/-- A plan of n samples at step dz about a centre, whose span fits the focus range: it lies wholly inside the range, stands where it
was centred when that fits, and otherwise at the floor or under the ceiling (R125). -/
def Obligations.PlansLieInTheFocusRange : Prop :=
  ∀ (f : FocusRecipe) (centre : Int) (n dz : Nat), 1 ≤ n → ((n : Int) - 1) * dz ≤ f.ceiling - f.floor →
    let p := makePlan f centre n dz
    let span := ((n : Int) - 1) * dz
    let first := centre - dz * (((n : Int) - 1) / 2)
    p.n = n ∧ p.dz = dz ∧ p.centre = centre ∧ f.floor ≤ p.z0 ∧ p.z0 + span ≤ f.ceiling
    ∧ (f.floor ≤ first → first + span ≤ f.ceiling → p.z0 = first)
    ∧ (first < f.floor → p.z0 = f.floor)
    ∧ (f.floor ≤ first → f.ceiling < first + span → p.z0 = f.ceiling - span)

/-- The prediction for a zone takes the first available of the five sources, in their order (R139); its means and every other
quotient are rounded to the nearest, halves away from zero (R118, R140); and the step the state of the zone allows (R123). -/
def Obligations.PredictionSources : Prop :=
  (∀ (zones : Sparse Zone) (f : FocusRecipe) (z : Nat × Nat),
    let own := Sparse.lookup zones (12 * z.1 + z.2)
    let near := ((List.range 144).filter fun k => k / 12 ≤ z.1 + 1 ∧ z.1 ≤ k / 12 + 1 ∧ k % 12 ≤ z.2 + 1 ∧ z.2 ≤ k % 12 + 1
      ∧ k ≠ 12 * z.1 + z.2).filterMap fun k => ((Sparse.lookup zones k).filter fun v => v.trust = .tracking).map fun v => v.value
    let all := (zones.filter fun p => p.2.trust = .tracking).map fun p => p.2.value
    (∀ v, own = some v → v.trust = .tracking → predict zones f z = (v.value, .zone))
    ∧ ((∀ v, own = some v → v.trust ≠ .tracking) →
      (near ≠ [] → predict zones f z = (roundDiv near.sum near.length, .neighbours))
      ∧ (near = [] → ∀ v, own = some v → predict zones f z = (v.value, .seed))
      ∧ (near = [] → own = none → all ≠ [] → predict zones f z = (roundDiv all.sum all.length, .wafer))
      ∧ (near = [] → own = none → all = [] → predict zones f z = (16 * f.nominal, .nominal))))
  ∧ (∀ n d : Int, 0 < d →
    2 * |roundDiv n d * d - n| ≤ d ∧ (2 * |roundDiv n d * d - n| = d → |n| < |roundDiv n d * d|))
  ∧ ∀ (zone : Option Zone) (chosen : FocusStep),
    (zone = none → limitStep zone chosen = .wide)
    ∧ ∀ v, zone = some v →
      (v.trust = .suspect → limitStep zone chosen = .wide)
      ∧ (v.trust = .seeded → limitStep zone chosen = if chosen = .wide then .wide else .narrow)
      ∧ (v.trust = .tracking → limitStep zone chosen = chosen)

/-- A COLUMN read of the plan slot with the site entry ARRIVED decides its step: the choice by kind and cadence, the limit by zone,
the prediction, then the sweep plan or the focus at the prediction (R120, R122 to R124); an entry becomes FOCUSED in the first mode
allowed and offered, or fails NO_MODE (R132). Every other read changes nothing, and is served the entry's directive (R120, R121);
and the fields of the plan record, with the codes of kinds and focus sources and the places of the modes (R167, R169). -/
def Obligations.PlanReadDecidesTheStep : Prop :=
  (∀ (r : ReadBurst) (s : State), ReadsSlot .plan r s →
    let served := fun d : PlanDirective => exec (.planRead r) s = .next { s with traffic := recordTraffic r (planRecord d) }
    ((∀ p ∈ s.rs.table, isSite p.2.state = false) → served .idle)
    ∧ ∀ tag e q, siteEntry s.rs = some (tag, e) → e.sequence = some q →
      (e.state = .dispatched ∨ e.state = .recalling → served .idle)
      ∧ (e.state = .arrived → roleOf s.pi r.header ≠ .column → served .idle)
      ∧ (∀ c p number, e.state = .focusing → s.fe.context = some c → c.plan = some p → c.sweepNumber = some number →
        served (.sweep q tag e.kind number p.z0 p.dz p.n))
      ∧ (∀ c m focus prediction source, e.state = .focused → s.fe.context = some c → c.image = some (m, focus) →
        c.prediction = some (prediction, source) → served (.image q tag e.kind focus m e.sweeps source e.flags))
      ∧ (∀ (c : FocusContext) (w : WaferRecipe) (chosen : FocusStep), e.state = .arrived → roleOf s.pi r.header = .column →
        s.fe.context = some c → s.rs.session.recipe = some w → Sparse.lookup s.rs.table tag = some e →
        (e.kind = .regular ∧ ∃ h : s.rs.session.cadenceIndex < 16,
            stepOfCode (w.sampling.cadence[s.rs.session.cadenceIndex]'h).toNat = some chosen)
          ∨ (e.kind = .urgent ∧ chosen = .narrow) ∨ (e.kind = .calibration ∧ chosen = .wide) →
        let step := limitStep (Sparse.lookup s.fe.zones (12 * c.zone.1 + c.zone.2)) chosen
        let p := predict s.fe.zones w.focus c.zone
        let index := if e.kind = .regular then (s.rs.session.cadenceIndex + 1) % w.sampling.cadenceLength
          else s.rs.session.cadenceIndex
        let c' := { c with step := some step, prediction := some p }
        let advanced : State := { s with
          rs := { s.rs with session := { s.rs.session with cadenceIndex := index } }
          fe := { s.fe with context := some c' } }
        let plan := if step = .wide then makePlan w.focus (roundDiv p.1 16) w.focus.wideN w.focus.wideDz
          else makePlan w.focus (roundDiv p.1 16) w.focus.narrowN w.focus.narrowDz
        (step ≠ .predict → exec (.planRead r) s = .next
          { advanced with
            traffic := recordTraffic r (planRecord (.sweep q tag e.kind 1 plan.z0 plan.dz plan.n))
            rs := { advanced.rs with
              table := Sparse.insert s.rs.table tag { e with state := .focusing, sweeps := 1 }
              timer := if s.pi.setup.focusLimit = 0 then .stopped else .running s.pi.setup.focusLimit 0 true }
            fe := { s.fe with context := some { c' with plan := some plan, sweepNumber := some 1 } } })
        ∧ (step = .predict →
          let t := becomeFocused tag p.1 id advanced
          exec (.planRead r) s = .next { t with traffic := recordTraffic r (planRecord (planDirective t)) })))
  ∧ (∀ (q : BitVec 16) (tag : Nat) (k : RevisitKind) (number dz n sweeps : Nat) (z0 focus : Int) (m : Mode) (source : FocusSource)
      (x : EntryFlags),
    fld (planRecord .idle)[0] 0 8 = 1
    ∧ (let l := planRecord (.sweep q tag k number z0 dz n)
      fld l[0] 0 8 = 2 ∧ fld l[0] 16 16 = q.toNat ∧ fld l[0] 32 16 = tag % 65536 ∧ fld l[0] 48 8 = k.code ∧ fld l[0] 56 8 = 0
      ∧ fld l[1] 0 8 = number % 256 ∧ fld l[1] 8 8 = n % 256 ∧ fld l[1] 16 8 = dz % 256
      ∧ (-32768 ≤ z0 → z0 < 32768 → sfld l[1] 32 16 = z0))
    ∧ (let l := planRecord (.image q tag k focus m sweeps source x)
      fld l[0] 0 8 = 3 ∧ fld l[0] 16 16 = q.toNat ∧ fld l[0] 32 16 = tag % 65536 ∧ fld l[0] 48 8 = k.code
      ∧ fld l[0] 56 2 = 0 ∧ fld l[0] 58 1 = x.positionOff.toNat ∧ fld l[0] 59 1 = x.focusFallback.toNat
      ∧ fld l[0] 60 1 = x.focusAtLimit.toNat ∧ fld l[0] 61 1 = x.clamped.toNat
      ∧ (-2147483648 ≤ focus → focus < 2147483648 → sfld l[1] 0 32 = focus)
      ∧ fld l[1] 32 8 = m.index.val + 1 ∧ fld l[1] 40 8 = sweeps % 256 ∧ fld l[1] 48 8 = source.code))
  ∧ [RevisitKind.regular, .urgent, .calibration].map RevisitKind.code = [1, 2, 3]
  ∧ [FocusSource.zone, .neighbours, .seed, .wafer, .nominal].map FocusSource.code = [1, 2, 3, 4, 5]
  ∧ [Mode.seHigh, .bseHigh, .tilt, .seLow, .bseLow, .overview].map Mode.index = [0, 1, 2, 3, 4, 5]
  ∧ ∀ (s : State) (tag : Nat) (e : RevisitEntry) (w : WaferRecipe) (c : FocusContext) (z : Int) (flags : EntryFlags → EntryFlags),
    s.rs.session.recipe = some w → s.fe.context = some c → Sparse.lookup s.rs.table tag = some e →
    let open' := fun m : Mode => w.geometry.modes.getLsbD m.index.val = true ∧ s.fe.capability.getLsbD m.index.val = true
    ((∀ m, ¬ open' m) → becomeFocused tag z flags s = failEntry tag .noMode s)
    ∧ ∀ m, open' m → (∀ m' : Mode, m'.index < m.index → ¬ open' m') →
      let wanted := z + 16 * w.geometry.offsets[m.index]
      let focus := clamp (16 * w.focus.floor) (16 * w.focus.ceiling) wanted
      becomeFocused tag z flags s =
        { s with
          rs := { s.rs with
            table := Sparse.insert s.rs.table tag { e with
              state := .focused
              flags := { flags e.flags with clamped := (flags e.flags).clamped || decide (focus ≠ wanted) } }
            timer := if s.pi.setup.imageLimit = 0 then .stopped else .running s.pi.setup.imageLimit 0 true }
          fe := { s.fe with context := some { c with image := some (m, focus) } } }

/-- The sweep record: STALE unless it names the running sweep of a FOCUSING site entry, OUT_OF_RANGE on a wrong count (R126). With its
greatest score inside the sweep and not below the contrast floor it is OK: the interpolated focus is clamped, folded, and the entry
becomes FOCUSED there, or a calibration retires (R127, R128, R130, R141); and what a drift event and its request do (R84, R85, R146). -/
def Obligations.SweepOkDecided : Prop :=
  (∀ (b : WriteBurst) (s : State), Offers .sweep .sweep b s →
    let w := recordWords .sweep b s
    let q := BitVec.ofNat 16 (fld w[0] 0 16)
    ((∀ p ∈ s.rs.table, isSite p.2.state = false) → exec (.sweep b) s = .next (refusedPost .sweep b .stale s))
    ∧ (∀ tag e, siteEntry s.rs = some (tag, e) →
      e.state ≠ .focusing ∨ e.sequence ≠ some q ∨ (∀ c, s.fe.context = some c → c.sweepNumber ≠ some (fld w[0] 16 8)) →
      exec (.sweep b) s = .next (refusedPost .sweep b .stale s))
    ∧ ∀ tag e c recipe p, siteEntry s.rs = some (tag, e) → s.fe.context = some c → s.rs.session.recipe = some recipe →
      c.plan = some p →
      let named := e.state = .focusing ∧ e.sequence = some q ∧ c.sweepNumber = some (fld w[0] 16 8)
      (named → fld w[0] 24 8 ≠ p.n → exec (.sweep b) s = .next (refusedPost .sweep b .outOfRange s))
      ∧ (named → fld w[0] 24 8 = p.n → ∀ (score : Fin 12 → Int) (k : Fin 12) (prediction : Int × FocusSource),
        Sparse.lookup s.rs.table tag = some e → c.prediction = some prediction →
        (∀ j : Fin 12, score j = fld (w[1 + j.val / 4]'(by omega)) (16 * (j.val % 4)) 16) →
        (h0 : 0 < k.val) → (h1 : k.val + 1 < p.n) → (h2 : p.n ≤ 12) →
        (∀ j : Fin 12, j.val < p.n → score j ≤ score k) → (∀ j : Fin 12, j < k → score j < score k) →
        recipe.focus.contrastFloor ≤ score k →
        let before := score k - score ⟨k.val - 1, by omega⟩
        let after := score k - score ⟨k.val + 1, by omega⟩
        let raw := 16 * (p.z0 + k.val * p.dz) + roundDiv (8 * p.dz * (before - after)) (before + after)
        let measured := clamp (16 * recipe.focus.floor) (16 * recipe.focus.ceiling) raw
        let marked : State := { takenPost .sweep b s with
          rs := { s.rs with
            table := Sparse.insert s.rs.table tag { e with
              flags := { e.flags with clamped := e.flags.clamped || decide (measured ≠ raw) } } } }
        let folded := foldSweep recipe.focus c measured marked
        (e.kind = .calibration → ∃ e', Sparse.lookup folded.rs.table tag = some e' ∧ exec (.sweep b) s = .next
          { folded with
            rs := { folded.rs with
              timer := .stopped, table := Sparse.insert folded.rs.table tag { e' with state := .retired } }
            fe := { folded.fe with
              context := none, stats := { folded.fe.stats with calRun := min (folded.fe.stats.calRun + 1) 255 } } })
        ∧ (e.kind ≠ .calibration → exec (.sweep b) s = .next (becomeFocused tag measured id folded))
        ∧ (let fe := foldMeasurement recipe.focus c.zone measured prediction.1 s.fe
          (recipe.focus.driftLimit = 0 ∨ fe.stats.runCount < recipe.focus.driftLimit → folded = { marked with fe := fe })
          ∧ (recipe.focus.driftLimit ≠ 0 → recipe.focus.driftLimit ≤ fe.stats.runCount → folded = drift { marked with fe := fe }))))
  ∧ ∀ s : State,
    let demoted : FocusEngine := { s.fe with
      zones := s.fe.zones.map fun p => (p.1, if p.2.trust = .tracking then { p.2 with trust := .seeded, count := 0 } else p.2)
      stats := { s.fe.stats with driftEvents := min (s.fe.stats.driftEvents + 1) 255, runCount := 0, runSign := none } }
    let barred := s.rs.session.state ≠ .active ∨ 4 ≤ laneOccupancy s.rs
      ∨ ∃ e, Sparse.lookup s.rs.table 511 = some e ∧ isSite e.state = true
    (barred → drift s = { s with
      fe := { demoted with stats := { demoted.stats with calSuppressed := min (demoted.stats.calSuppressed + 1) 255 } }
      ru := raiseIn s.pi.setup.enable .drift s.ru })
    ∧ (¬ barred → drift s = { s with
      fe := demoted
      ru := raiseIn s.pi.setup.enable .drift s.ru
      rs := recallOnJoin { s.rs with
        lane := 511 :: s.rs.lane
        table := Sparse.insert s.rs.table 511
          { kind := .calibration, defect := none, state := .queued, attempts := 0, sweeps := 0
            flags :=
              { restarted := false, uncorrected := false, positionOff := false, focusFallback := false, focusAtLimit := false
                clamped := false }
            sequence := none, target := none } } })

/-- A sweep below the contrast floor is FLAT, one whose greatest score is at an end is EDGE (R127). A pinned edge gives FOCUSED there
with FOCUS_AT_LIMIT; otherwise the sweep is made again, about the plan's centre or the edge, while sweeps are left, and then the
entry becomes FOCUSED at its prediction with FOCUS_FALLBACK, or a calibration retires unmeasured (R129, R130). -/
def Obligations.SweepMissDecided : Prop :=
  ∀ (b : WriteBurst) (s : State) (tag : Nat) (e : RevisitEntry) (c : FocusContext) (recipe : WaferRecipe) (p : SweepPlan)
    (number : Nat) (prediction : Int × FocusSource) (score : Fin 12 → Nat) (k : Fin 12),
    Offers .sweep .sweep b s → siteEntry s.rs = some (tag, e) → s.fe.context = some c → s.rs.session.recipe = some recipe →
    c.plan = some p → e.state = .focusing → e.sequence = some (BitVec.ofNat 16 (fld (recordWords .sweep b s)[0] 0 16)) →
    c.sweepNumber = some number → number = fld (recordWords .sweep b s)[0] 16 8 → fld (recordWords .sweep b s)[0] 24 8 = p.n →
    p.n ≤ 12 → c.prediction = some prediction → Sparse.lookup s.rs.table tag = some e →
    (∀ j : Fin 12, score j = fld ((recordWords .sweep b s)[1 + j.val / 4]'(by omega)) (16 * (j.val % 4)) 16) →
    k.val < p.n → (∀ j : Fin 12, j.val < p.n → score j ≤ score k) → (∀ j : Fin 12, j < k → score j < score k) →
    let t := takenPost .sweep b s
    let f := recipe.focus
    let edge := p.z0 + k.val * p.dz
    let again := fun (centre : Int) => makePlan f centre f.wideN f.wideDz
    let miss := fun (centre : Int) =>
      (e.sweeps < f.maxSweeps → exec (.sweep b) s = .next
        { t with
          rs := { s.rs with table := Sparse.insert s.rs.table tag { e with sweeps := e.sweeps + 1 } }
          fe := { s.fe with context := some { c with plan := some (again centre), sweepNumber := some (number + 1) } } })
      ∧ (f.maxSweeps ≤ e.sweeps → e.kind ≠ .calibration →
        exec (.sweep b) s = .next (becomeFocused tag prediction.1 (fun x => { x with focusFallback := true }) t))
      ∧ (f.maxSweeps ≤ e.sweeps → e.kind = .calibration → exec (.sweep b) s = .next
        { t with
          rs := { s.rs with timer := .stopped, table := Sparse.insert s.rs.table tag { e with state := .retired } }
          fe := { s.fe with
            context := none, stats := { s.fe.stats with calUnmeasured := min (s.fe.stats.calUnmeasured + 1) 255 } } })
    (score k < f.contrastFloor → miss p.centre)
    ∧ (f.contrastFloor ≤ score k → k.val = 0 ∨ k.val + 1 = p.n →
      let same := (again edge).z0 = p.z0 ∧ (again edge).dz = p.dz ∧ (again edge).n = p.n
      (same → exec (.sweep b) s = .next (becomeFocused tag (16 * edge) (fun x => { x with focusAtLimit := true }) t))
      ∧ (¬ same → miss edge))

/-- The fold of a measured focus into its zone and the statistics: an untrusted zone takes it whole, a TRACKING one is moved by the
weighted step or becomes SUSPECT, the tallies and extremes, and the drift run by the sign of the residual (R141 to R145). -/
def Obligations.ZoneFoldAndDriftRun : Prop :=
  ∀ (f : FocusRecipe) (z : Nat × Nat) (measured prediction : Int) (fe : FocusEngine),
    let key := 12 * z.1 + z.2
    let r := measured - prediction
    let t := foldMeasurement f z measured prediction fe
    let old := Sparse.lookup fe.zones key
    let tracking := fun v : Zone => old = some v ∧ v.trust = .tracking
    t.context = fe.context ∧ t.capability = fe.capability
    ∧ (∀ j, j ≠ key → Sparse.lookup t.zones j = Sparse.lookup fe.zones j)
    ∧ ((∀ v, ¬ tracking v) →
      Sparse.lookup t.zones key = some { trust := .tracking, value := measured, count := 1, measured := true })
    ∧ (∀ v, tracking v → f.residualLow ≤ r → r ≤ f.residualHigh → Sparse.lookup t.zones key = some
      { trust := .tracking, value := v.value + roundDiv (measured - v.value) (2 ^ f.weightShift), count := min (v.count + 1) 255
        measured := true })
    ∧ (∀ v, tracking v → f.residualHigh < r ∨ r < f.residualLow →
      Sparse.lookup t.zones key = some { trust := .suspect, value := v.value, count := v.count, measured := true })
    ∧ (let a := fe.stats
      t.stats.accepted = min (a.accepted + 1) 4095
      ∧ t.stats.minFocus = min measured a.minFocus ∧ t.stats.maxFocus = max measured a.maxFocus
      ∧ ((∃ v, tracking v) → f.residualHigh < r → t.stats.residualHigh = min (a.residualHigh + 1) 4095)
      ∧ ((∃ v, tracking v) → r ≤ f.residualHigh → r < f.residualLow → t.stats.residualLow = min (a.residualLow + 1) 4095)
      ∧ (r ≤ f.residualHigh ∨ (∀ v, ¬ tracking v) → t.stats.residualHigh = a.residualHigh)
      ∧ (f.residualLow ≤ r ∨ f.residualHigh < r ∨ (∀ v, ¬ tracking v) → t.stats.residualLow = a.residualLow)
      ∧ (r = 0 → t.stats.runCount = 0 ∧ t.stats.runSign = none)
      ∧ (0 < r → t.stats.runSign = some .positive
        ∧ t.stats.runCount = if a.runSign = some .positive then min (a.runCount + 1) 15 else 1)
      ∧ (r < 0 → t.stats.runSign = some .negative
        ∧ t.stats.runCount = if a.runSign = some .negative then min (a.runCount + 1) 15 else 1)
      ∧ t.stats.driftEvents = a.driftEvents ∧ t.stats.calRun = a.calRun ∧ t.stats.calSuppressed = a.calSuppressed
      ∧ t.stats.calUnmeasured = a.calUnmeasured)

/-! ## Laws every step keeps -/

/-- A part sampled in bypass at reset release keeps every block at its pin-reset value: no step but a new pin reset moves it (R1, R21, R38, R55, R70,
R86, R93, R117, R135, R149, R164). -/
def Obligations.BypassedPartStands : Prop := ∀ s t : State, BypassHolds s → step s = .next t → BypassHolds t

/-- Every step keeps this: ATTN is high exactly while some kind is both pending and enabled (R160). -/
def Obligations.AttnFollowsItsCondition : Prop := ∀ s t : State, AttnRight s → step s = .next t → AttnRight t

/-- Every step keeps these: the FIFO does not pass 512 words, every count that holds stays within its limit, and the sparse stores
stay canonical within their bounds (R11, R37, R69, R71, R77, R78, R88, R89, R97, R130, R136, R138, R150, R151, R157). -/
def Obligations.StoresAndCountsStayInBounds : Prop :=
  ∀ s t : State, step s = .next t →
    (FifoBounded s → FifoBounded t) ∧ (CountsHold s → CountsHold t) ∧ (StoresBounded s → StoresBounded t)

/-- Every step keeps this: places, locations, the lot state and the channel agree, so that no two wafers share a place, no wafer
stands in two, and the wafer of a command under way is where the command takes it from (R26, R39, R41, R46 to R52). -/
def Obligations.PlacesAgreeAlways : Prop := ∀ s t : State, PlacesAgree s → step s = .next t → PlacesAgree t

/-- Every step keeps this: at most one revisit entry is in a site state, the revisit table is canonical, and the lane's occupancy is at
most its four places (R77, R80, R81, R115). -/
def Obligations.OneSiteAndFourPlaces : Prop := ∀ s t : State, SiteAndLane s → step s = .next t → SiteAndLane t
end

