-- ==== Sys2Proof/Laws/Fields.lean ====
section
/-! SUPPORT. The laws of bit fields: a field read back from a composed word, and the bytes of a merged word. -/

namespace Sys2Proof.Machine

/-- Bit i of a field is bit lo + i of the word. -/
theorem fld_testBit (w : Word) (lo n i : Nat) : (fld w lo n).testBit i = (decide (i < n) && w.getLsbD (lo + i)) := by
  simp [fld, Nat.testBit_mod_two_pow, Nat.testBit_div_two_pow, BitVec.getLsbD, Nat.add_comm]

/-- The bits of a word composed of one field. -/
theorem put_getLsbD (lo n v j : Nat) :
    (put lo n v).getLsbD j = (decide (j < 64) && decide (lo ≤ j) && decide (j - lo < n) && v.testBit (j - lo)) := by
  simp only [put, BitVec.getLsbD_ofNat, Nat.testBit_mul_two_pow, Nat.testBit_mod_two_pow]
  grind

/-- A field of a union of words is the union of the fields. -/
theorem fld_or (x y : Word) (lo n : Nat) : fld (x ||| y) lo n = fld x lo n ||| fld y lo n := by
  apply Nat.eq_of_testBit_eq
  intro i
  simp only [Nat.testBit_or, fld_testBit, BitVec.getLsbD_or]
  cases decide (i < n) <;> simp

/-- A field reads back the value put in it. -/
theorem fld_put_same {lo n : Nat} (v : Nat) (h : lo + n ≤ 64) : fld (put lo n v) lo n = v % 2 ^ n := by
  apply Nat.eq_of_testBit_eq
  intro i
  simp only [fld_testBit, put_getLsbD, Nat.testBit_mod_two_pow]
  by_cases hi : i < n
  · have h1 : lo + i < 64 := by omega
    simp [hi, h1]
  · simp [hi]

/-- A field apart from the one put reads zero. -/
theorem fld_put_apart {lo n lo' n' : Nat} (v : Nat) (h : lo + n ≤ lo' ∨ lo' + n' ≤ lo) : fld (put lo' n' v) lo n = 0 := by
  apply Nat.eq_of_testBit_eq
  intro i
  simp only [fld_testBit, put_getLsbD, Nat.zero_testBit]
  by_cases hi : i < n
  · have : ¬ (lo' ≤ lo + i ∧ lo + i - lo' < n') := by omega
    simp only [hi, decide_true, Bool.true_and]
    by_cases h1 : lo' ≤ lo + i
    · have h2 : ¬ (lo + i - lo' < n') := by omega
      simp [h2]
    · simp [h1]
  · simp [hi]

/-- A field is below its width's power. -/
theorem fld_lt (w : Word) (lo n : Nat) : fld w lo n < 2 ^ n := Nat.mod_lt _ (Nat.two_pow_pos n)

/-- The bits of the lane mask: those of the byte lanes whose mark is set. -/
theorem laneMask_getLsbD (lanes : BitVec 8) (i : Nat) (hi : i < 64) : (laneMask lanes).getLsbD i = lanes.getLsbD (i / 8) := by
  have h : ∀ j, j < 8 → ∀ m : Word, (if lanes.getLsbD j then m ||| put (8 * j) 8 255 else m).getLsbD i =
      (m.getLsbD i || (decide (i / 8 = j) && lanes.getLsbD j)) := by
    intro j hj m
    have h255 : ∀ k, k < 8 → (255 : Nat).testBit k = true := by decide
    by_cases hl : lanes.getLsbD j = true
    · simp only [hl, if_true, BitVec.getLsbD_or, put_getLsbD, hi, decide_true, Bool.true_and, Bool.and_true]
      by_cases hij : i / 8 = j
      · have h1 : 8 * j ≤ i := by omega
        have h2 : i - 8 * j < 8 := by omega
        simp [hij, h1, h2, h255 _ h2]
      · have : ¬ (8 * j ≤ i ∧ i - 8 * j < 8) := by omega
        by_cases h1 : 8 * j ≤ i
        · have h2 : ¬ (i - 8 * j < 8) := by omega
          simp [hij, h2]
        · simp [hij, h1]
    · simp [hl]
  have h8 : i / 8 < 8 := by omega
  simp only [laneMask, List.range, List.range.loop, List.foldl_cons, List.foldl_nil]
  rw [h 7 (by omega), h 6 (by omega), h 5 (by omega), h 4 (by omega), h 3 (by omega), h 2 (by omega), h 1 (by omega),
    h 0 (by omega)]
  interval_cases i / 8 <;> simp

/-- Bit i of a merged word is the data's where its byte's strobe is set, the old word's elsewhere (R7). -/
theorem mergeBytes_getLsbD (old data : Word) (strobes : BitVec 8) (i : Nat) (hi : i < 64) :
    (mergeBytes old data strobes).getLsbD i = if strobes.getLsbD (i / 8) then data.getLsbD i else old.getLsbD i := by
  simp only [mergeBytes, BitVec.getLsbD_or, BitVec.getLsbD_and, BitVec.getLsbD_not, laneMask_getLsbD _ _ hi, hi, decide_true,
    Bool.true_and]
  cases strobes.getLsbD (i / 8) <;> simp

/-- The bits of a byte of a word. -/
theorem byteAt_getLsbD (w : Word) (j k : Nat) (hk : k < 8) : (byteAt w j).getLsbD k = w.getLsbD (8 * j + k) := by
  rw [byteAt, BitVec.getLsbD_ofNat, fld_testBit]
  simp only [hk, decide_true, Bool.true_and]

/-- A byte of a merged word (R7). -/
theorem byteAt_mergeBytes (old data : Word) (strobes : BitVec 8) (j : Nat) (hj : j < 8) :
    byteAt (mergeBytes old data strobes) j = if strobes.getLsbD j then byteAt data j else byteAt old j := by
  apply BitVec.eq_of_getLsbD_eq
  intro k hk
  rw [byteAt_getLsbD _ _ _ hk, mergeBytes_getLsbD _ _ _ _ (by omega)]
  have : (8 * j + k) / 8 = j := by omega
  rw [this]
  cases strobes.getLsbD j
  · simp only [Bool.false_eq_true, if_false]; rw [byteAt_getLsbD _ _ _ hk]
  · simp only [if_true]; rw [byteAt_getLsbD _ _ _ hk]

end Sys2Proof.Machine
end

