-- ==== Sys2Proof/Laws/State.lean ====
section
/-! SUPPORT. What each named update leaves unchanged, one lemma per field, so that no later proof unfolds an update. -/

namespace Sys2Proof.Machine

@[simp] theorem withPending_traffic (s : State) (q : List Instr) : (s.withPending q).traffic = s.traffic := rfl
@[simp] theorem withPending_pi (s : State) (q : List Instr) : (s.withPending q).pi = s.pi := rfl
@[simp] theorem withPending_wt (s : State) (q : List Instr) : (s.withPending q).wt = s.wt := rfl
@[simp] theorem withPending_rs (s : State) (q : List Instr) : (s.withPending q).rs = s.rs := rfl
@[simp] theorem withPending_fe (s : State) (q : List Instr) : (s.withPending q).fe = s.fe := rfl
@[simp] theorem withPending_ru (s : State) (q : List Instr) : (s.withPending q).ru = s.ru := rfl
@[simp] theorem withPending_pending (s : State) (q : List Instr) : (s.withPending q).pending = q := rfl

@[simp] theorem raise_pending (e : EventKind) (s : State) : (raise e s).pending = s.pending := rfl
@[simp] theorem raise_traffic (e : EventKind) (s : State) : (raise e s).traffic = s.traffic := rfl
@[simp] theorem raise_pi (e : EventKind) (s : State) : (raise e s).pi = s.pi := rfl
@[simp] theorem raise_wt (e : EventKind) (s : State) : (raise e s).wt = s.wt := rfl
@[simp] theorem raise_rs (e : EventKind) (s : State) : (raise e s).rs = s.rs := rfl
@[simp] theorem raise_fe (e : EventKind) (s : State) : (raise e s).fe = s.fe := rfl

@[simp] theorem recordPost_pending (slot : Nat) (tag : BitVec 8) (o : PostOutcome) (s : State) :
    (recordPost slot tag o s).pending = s.pending := rfl
@[simp] theorem recordPost_traffic (slot : Nat) (tag : BitVec 8) (o : PostOutcome) (s : State) :
    (recordPost slot tag o s).traffic = s.traffic := rfl
@[simp] theorem recordPost_wt (slot : Nat) (tag : BitVec 8) (o : PostOutcome) (s : State) :
    (recordPost slot tag o s).wt = s.wt := rfl
@[simp] theorem recordPost_rs (slot : Nat) (tag : BitVec 8) (o : PostOutcome) (s : State) :
    (recordPost slot tag o s).rs = s.rs := rfl
@[simp] theorem recordPost_fe (slot : Nat) (tag : BitVec 8) (o : PostOutcome) (s : State) :
    (recordPost slot tag o s).fe = s.fe := rfl

@[simp] theorem recordRewrite_pending (reason : RewriteReason) (s : State) : (recordRewrite reason s).pending = s.pending := rfl
@[simp] theorem recordRewrite_traffic (reason : RewriteReason) (s : State) : (recordRewrite reason s).traffic = s.traffic := rfl
@[simp] theorem recordRewrite_pi (reason : RewriteReason) (s : State) : (recordRewrite reason s).pi = s.pi := rfl
@[simp] theorem recordRewrite_wt (reason : RewriteReason) (s : State) : (recordRewrite reason s).wt = s.wt := rfl
@[simp] theorem recordRewrite_rs (reason : RewriteReason) (s : State) : (recordRewrite reason s).rs = s.rs := rfl
@[simp] theorem recordRewrite_fe (reason : RewriteReason) (s : State) : (recordRewrite reason s).fe = s.fe := rfl

@[simp] theorem storeRecord_pending (w : Bool) (r : List Word) (s : State) : (storeRecord w r s).pending = s.pending := rfl
@[simp] theorem storeRecord_traffic (w : Bool) (r : List Word) (s : State) : (storeRecord w r s).traffic = s.traffic := rfl
@[simp] theorem storeRecord_pi (w : Bool) (r : List Word) (s : State) : (storeRecord w r s).pi = s.pi := rfl
@[simp] theorem storeRecord_wt (w : Bool) (r : List Word) (s : State) : (storeRecord w r s).wt = s.wt := rfl
@[simp] theorem storeRecord_rs (w : Bool) (r : List Word) (s : State) : (storeRecord w r s).rs = s.rs := rfl
@[simp] theorem storeRecord_fe (w : Bool) (r : List Word) (s : State) : (storeRecord w r s).fe = s.fe := rfl

@[simp] theorem passWrite_pending (b : WriteBurst) (l : List WriteData) (s : State) :
    (passWrite b l s).pending = s.pending := rfl
@[simp] theorem passWrite_pi (b : WriteBurst) (l : List WriteData) (s : State) : (passWrite b l s).pi = s.pi := rfl
@[simp] theorem passWrite_wt (b : WriteBurst) (l : List WriteData) (s : State) : (passWrite b l s).wt = s.wt := rfl
@[simp] theorem passWrite_rs (b : WriteBurst) (l : List WriteData) (s : State) : (passWrite b l s).rs = s.rs := rfl
@[simp] theorem passWrite_fe (b : WriteBurst) (l : List WriteData) (s : State) : (passWrite b l s).fe = s.fe := rfl
@[simp] theorem passWrite_ru (b : WriteBurst) (l : List WriteData) (s : State) : (passWrite b l s).ru = s.ru := rfl

@[simp] theorem passRead_pending (r : ReadBurst) (s : State) : (passRead r s).pending = s.pending := rfl
@[simp] theorem passRead_pi (r : ReadBurst) (s : State) : (passRead r s).pi = s.pi := rfl
@[simp] theorem passRead_wt (r : ReadBurst) (s : State) : (passRead r s).wt = s.wt := rfl
@[simp] theorem passRead_rs (r : ReadBurst) (s : State) : (passRead r s).rs = s.rs := rfl
@[simp] theorem passRead_fe (r : ReadBurst) (s : State) : (passRead r s).fe = s.fe := rfl
@[simp] theorem passRead_ru (r : ReadBurst) (s : State) : (passRead r s).ru = s.ru := rfl

@[simp] theorem answerRead_pending (h : BurstHeader) (l : List ReadBeat) (s : State) :
    (answerRead h l s).pending = s.pending := rfl
@[simp] theorem answerRead_pi (h : BurstHeader) (l : List ReadBeat) (s : State) : (answerRead h l s).pi = s.pi := rfl
@[simp] theorem answerRead_wt (h : BurstHeader) (l : List ReadBeat) (s : State) : (answerRead h l s).wt = s.wt := rfl
@[simp] theorem answerRead_rs (h : BurstHeader) (l : List ReadBeat) (s : State) : (answerRead h l s).rs = s.rs := rfl
@[simp] theorem answerRead_fe (h : BurstHeader) (l : List ReadBeat) (s : State) : (answerRead h l s).fe = s.fe := rfl
@[simp] theorem answerRead_ru (h : BurstHeader) (l : List ReadBeat) (s : State) : (answerRead h l s).ru = s.ru := rfl

@[simp] theorem idlePorts_pending (s : State) : (idlePorts s).pending = s.pending := rfl
@[simp] theorem idlePorts_pi (s : State) : (idlePorts s).pi = s.pi := rfl
@[simp] theorem idlePorts_wt (s : State) : (idlePorts s).wt = s.wt := rfl
@[simp] theorem idlePorts_rs (s : State) : (idlePorts s).rs = s.rs := rfl
@[simp] theorem idlePorts_fe (s : State) : (idlePorts s).fe = s.fe := rfl
@[simp] theorem idlePorts_ru (s : State) : (idlePorts s).ru = s.ru := rfl

@[simp] theorem leaveSite_pending (tag : Nat) (f : RevisitEntry → RevisitEntry) (s : State) :
    (leaveSite tag f s).pending = s.pending := rfl
@[simp] theorem leaveSite_traffic (tag : Nat) (f : RevisitEntry → RevisitEntry) (s : State) :
    (leaveSite tag f s).traffic = s.traffic := rfl
@[simp] theorem leaveSite_pi (tag : Nat) (f : RevisitEntry → RevisitEntry) (s : State) : (leaveSite tag f s).pi = s.pi := rfl
@[simp] theorem leaveSite_wt (tag : Nat) (f : RevisitEntry → RevisitEntry) (s : State) : (leaveSite tag f s).wt = s.wt := rfl
@[simp] theorem leaveSite_ru (tag : Nat) (f : RevisitEntry → RevisitEntry) (s : State) : (leaveSite tag f s).ru = s.ru := rfl

@[simp] theorem retireEntry_pending (tag : Nat) (s : State) : (retireEntry tag s).pending = s.pending := rfl
@[simp] theorem retireEntry_traffic (tag : Nat) (s : State) : (retireEntry tag s).traffic = s.traffic := rfl
@[simp] theorem retireEntry_pi (tag : Nat) (s : State) : (retireEntry tag s).pi = s.pi := rfl
@[simp] theorem retireEntry_wt (tag : Nat) (s : State) : (retireEntry tag s).wt = s.wt := rfl
@[simp] theorem retireEntry_ru (tag : Nat) (s : State) : (retireEntry tag s).ru = s.ru := rfl

@[simp] theorem makeRecall_pending (tag : Nat) (s : State) : (makeRecall tag s).pending = s.pending := rfl
@[simp] theorem makeRecall_traffic (tag : Nat) (s : State) : (makeRecall tag s).traffic = s.traffic := rfl
@[simp] theorem makeRecall_pi (tag : Nat) (s : State) : (makeRecall tag s).pi = s.pi := rfl
@[simp] theorem makeRecall_wt (tag : Nat) (s : State) : (makeRecall tag s).wt = s.wt := rfl
@[simp] theorem makeRecall_ru (tag : Nat) (s : State) : (makeRecall tag s).ru = s.ru := rfl

@[simp] theorem failEntry_pending (tag : Nat) (reason : FailReason) (s : State) :
    (failEntry tag reason s).pending = s.pending := by unfold failEntry; split <;> rfl
@[simp] theorem failEntry_traffic (tag : Nat) (reason : FailReason) (s : State) :
    (failEntry tag reason s).traffic = s.traffic := by unfold failEntry; split <;> rfl
@[simp] theorem failEntry_pi (tag : Nat) (reason : FailReason) (s : State) :
    (failEntry tag reason s).pi = s.pi := by unfold failEntry; split <;> rfl
@[simp] theorem failEntry_wt (tag : Nat) (reason : FailReason) (s : State) :
    (failEntry tag reason s).wt = s.wt := by unfold failEntry; split <;> rfl

@[simp] theorem setBuffer_window (slot : StagedSlot) (u : StagingBuffer) (p : PathInterface) :
    (setBuffer slot u p).window = p.window := rfl
@[simp] theorem setBuffer_bypass (slot : StagedSlot) (u : StagingBuffer) (p : PathInterface) :
    (setBuffer slot u p).bypass = p.bypass := rfl
@[simp] theorem setBuffer_part (slot : StagedSlot) (u : StagingBuffer) (p : PathInterface) :
    (setBuffer slot u p).part = p.part := rfl
@[simp] theorem setBuffer_setup (slot : StagedSlot) (u : StagingBuffer) (p : PathInterface) :
    (setBuffer slot u p).setup = p.setup := rfl
@[simp] theorem setBuffer_focusRecipe (slot : StagedSlot) (u : StagingBuffer) (p : PathInterface) :
    (setBuffer slot u p).focusRecipe = p.focusRecipe := rfl
@[simp] theorem setBuffer_samplingRecipe (slot : StagedSlot) (u : StagingBuffer) (p : PathInterface) :
    (setBuffer slot u p).samplingRecipe = p.samplingRecipe := rfl
@[simp] theorem setBuffer_geometryRecipe (slot : StagedSlot) (u : StagingBuffer) (p : PathInterface) :
    (setBuffer slot u p).geometryRecipe = p.geometryRecipe := rfl
@[simp] theorem setBuffer_lastPost (slot : StagedSlot) (u : StagingBuffer) (p : PathInterface) :
    (setBuffer slot u p).lastPost = p.lastPost := rfl
@[simp] theorem setBuffer_refusals (slot : StagedSlot) (u : StagingBuffer) (p : PathInterface) :
    (setBuffer slot u p).refusals = p.refusals := rfl

@[simp] theorem postFields_window (slot : Nat) (tag : BitVec 8) (o : PostOutcome) (p : PathInterface) :
    (postFields slot tag o p).window = p.window := rfl
@[simp] theorem postFields_bypass (slot : Nat) (tag : BitVec 8) (o : PostOutcome) (p : PathInterface) :
    (postFields slot tag o p).bypass = p.bypass := rfl
@[simp] theorem postFields_part (slot : Nat) (tag : BitVec 8) (o : PostOutcome) (p : PathInterface) :
    (postFields slot tag o p).part = p.part := rfl
@[simp] theorem postFields_setup (slot : Nat) (tag : BitVec 8) (o : PostOutcome) (p : PathInterface) :
    (postFields slot tag o p).setup = p.setup := rfl
@[simp] theorem postFields_staging (slot : Nat) (tag : BitVec 8) (o : PostOutcome) (p : PathInterface) :
    (postFields slot tag o p).staging = p.staging := rfl
@[simp] theorem postFields_focusRecipe (slot : Nat) (tag : BitVec 8) (o : PostOutcome) (p : PathInterface) :
    (postFields slot tag o p).focusRecipe = p.focusRecipe := rfl
@[simp] theorem postFields_samplingRecipe (slot : Nat) (tag : BitVec 8) (o : PostOutcome) (p : PathInterface) :
    (postFields slot tag o p).samplingRecipe = p.samplingRecipe := rfl
@[simp] theorem postFields_geometryRecipe (slot : Nat) (tag : BitVec 8) (o : PostOutcome) (p : PathInterface) :
    (postFields slot tag o p).geometryRecipe = p.geometryRecipe := rfl

@[simp] theorem syncAttn_fifo (e : EventSet) (r : ReportUnit) : (syncAttn e r).fifo = r.fifo := rfl
@[simp] theorem syncAttn_pendingEvents (e : EventSet) (r : ReportUnit) : (syncAttn e r).pendingEvents = r.pendingEvents := rfl
@[simp] theorem syncAttn_lastRefusal (e : EventSet) (r : ReportUnit) : (syncAttn e r).lastRefusal = r.lastRefusal := rfl
@[simp] theorem syncAttn_lastRewrite (e : EventSet) (r : ReportUnit) : (syncAttn e r).lastRewrite = r.lastRewrite := rfl
@[simp] theorem syncAttn_lost (e : EventSet) (r : ReportUnit) : (syncAttn e r).lost = r.lost := rfl
@[simp] theorem syncAttn_waferReportsLost (e : EventSet) (r : ReportUnit) :
    (syncAttn e r).waferReportsLost = r.waferReportsLost := rfl
@[simp] theorem syncAttn_reportLost (e : EventSet) (r : ReportUnit) : (syncAttn e r).reportLost = r.reportLost := rfl

@[simp] theorem raiseIn_fifo (n : EventSet) (e : EventKind) (r : ReportUnit) : (raiseIn n e r).fifo = r.fifo := rfl
@[simp] theorem raiseIn_lastRefusal (n : EventSet) (e : EventKind) (r : ReportUnit) :
    (raiseIn n e r).lastRefusal = r.lastRefusal := rfl
@[simp] theorem raiseIn_lastRewrite (n : EventSet) (e : EventKind) (r : ReportUnit) :
    (raiseIn n e r).lastRewrite = r.lastRewrite := rfl
@[simp] theorem raiseIn_lost (n : EventSet) (e : EventKind) (r : ReportUnit) : (raiseIn n e r).lost = r.lost := rfl
@[simp] theorem raiseIn_waferReportsLost (n : EventSet) (e : EventKind) (r : ReportUnit) :
    (raiseIn n e r).waferReportsLost = r.waferReportsLost := rfl
@[simp] theorem raiseIn_reportLost (n : EventSet) (e : EventKind) (r : ReportUnit) :
    (raiseIn n e r).reportLost = r.reportLost := rfl

@[simp] theorem modSlot_lot (c : CarrierSlot) (f : SlotRecord → SlotRecord) (t : WaferTracker) :
    (modSlot c f t).lot = t.lot := rfl
@[simp] theorem modSlot_lotNumber (c : CarrierSlot) (f : SlotRecord → SlotRecord) (t : WaferTracker) :
    (modSlot c f t).lotNumber = t.lotNumber := rfl
@[simp] theorem modSlot_idCheck (c : CarrierSlot) (f : SlotRecord → SlotRecord) (t : WaferTracker) :
    (modSlot c f t).idCheck = t.idCheck := rfl
@[simp] theorem modSlot_idMask (c : CarrierSlot) (f : SlotRecord → SlotRecord) (t : WaferTracker) :
    (modSlot c f t).idMask = t.idMask := rfl
@[simp] theorem modSlot_ends (c : CarrierSlot) (f : SlotRecord → SlotRecord) (t : WaferTracker) :
    (modSlot c f t).ends = t.ends := rfl
@[simp] theorem modSlot_tallies (c : CarrierSlot) (f : SlotRecord → SlotRecord) (t : WaferTracker) :
    (modSlot c f t).tallies = t.tallies := rfl
@[simp] theorem modSlot_robot (c : CarrierSlot) (f : SlotRecord → SlotRecord) (t : WaferTracker) :
    (modSlot c f t).robot = t.robot := rfl
@[simp] theorem modSlot_aligner (c : CarrierSlot) (f : SlotRecord → SlotRecord) (t : WaferTracker) :
    (modSlot c f t).aligner = t.aligner := rfl
@[simp] theorem modSlot_chamber (c : CarrierSlot) (f : SlotRecord → SlotRecord) (t : WaferTracker) :
    (modSlot c f t).chamber = t.chamber := rfl
@[simp] theorem modSlot_channel (c : CarrierSlot) (f : SlotRecord → SlotRecord) (t : WaferTracker) :
    (modSlot c f t).channel = t.channel := rfl

@[simp] theorem passCommand_lot (k : HeldCommand) (t : WaferTracker) : (passCommand k t).lot = t.lot := rfl
@[simp] theorem passCommand_lotNumber (k : HeldCommand) (t : WaferTracker) : (passCommand k t).lotNumber = t.lotNumber := rfl
@[simp] theorem passCommand_idCheck (k : HeldCommand) (t : WaferTracker) : (passCommand k t).idCheck = t.idCheck := rfl
@[simp] theorem passCommand_idMask (k : HeldCommand) (t : WaferTracker) : (passCommand k t).idMask = t.idMask := rfl
@[simp] theorem passCommand_ends (k : HeldCommand) (t : WaferTracker) : (passCommand k t).ends = t.ends := rfl
@[simp] theorem passCommand_slots (k : HeldCommand) (t : WaferTracker) : (passCommand k t).slots = t.slots := rfl
@[simp] theorem passCommand_tallies (k : HeldCommand) (t : WaferTracker) : (passCommand k t).tallies = t.tallies := rfl
@[simp] theorem passCommand_robot (k : HeldCommand) (t : WaferTracker) : (passCommand k t).robot = t.robot := rfl
@[simp] theorem passCommand_aligner (k : HeldCommand) (t : WaferTracker) : (passCommand k t).aligner = t.aligner := rfl
@[simp] theorem passCommand_chamber (k : HeldCommand) (t : WaferTracker) : (passCommand k t).chamber = t.chamber := rfl

@[simp] theorem putEntry_defects (tag : Nat) (e : RevisitEntry) (r : RevisitScheduler) :
    (putEntry tag e r).defects = r.defects := rfl
@[simp] theorem putEntry_session (tag : Nat) (e : RevisitEntry) (r : RevisitScheduler) :
    (putEntry tag e r).session = r.session := rfl
@[simp] theorem putEntry_queue (tag : Nat) (e : RevisitEntry) (r : RevisitScheduler) : (putEntry tag e r).queue = r.queue := rfl
@[simp] theorem putEntry_lane (tag : Nat) (e : RevisitEntry) (r : RevisitScheduler) : (putEntry tag e r).lane = r.lane := rfl
@[simp] theorem putEntry_timer (tag : Nat) (e : RevisitEntry) (r : RevisitScheduler) : (putEntry tag e r).timer = r.timer := rfl
@[simp] theorem putEntry_corrections (tag : Nat) (e : RevisitEntry) (r : RevisitScheduler) :
    (putEntry tag e r).corrections = r.corrections := rfl
@[simp] theorem putEntry_cursor (tag : Nat) (e : RevisitEntry) (r : RevisitScheduler) :
    (putEntry tag e r).cursor = r.cursor := rfl
@[simp] theorem putEntry_remaining (tag : Nat) (e : RevisitEntry) (r : RevisitScheduler) :
    (putEntry tag e r).remaining = r.remaining := rfl

@[simp] theorem modEntry_defects (tag : Nat) (f : RevisitEntry → RevisitEntry) (r : RevisitScheduler) :
    (modEntry tag f r).defects = r.defects := by unfold modEntry; split <;> rfl
@[simp] theorem modEntry_session (tag : Nat) (f : RevisitEntry → RevisitEntry) (r : RevisitScheduler) :
    (modEntry tag f r).session = r.session := by unfold modEntry; split <;> rfl
@[simp] theorem modEntry_queue (tag : Nat) (f : RevisitEntry → RevisitEntry) (r : RevisitScheduler) :
    (modEntry tag f r).queue = r.queue := by unfold modEntry; split <;> rfl
@[simp] theorem modEntry_lane (tag : Nat) (f : RevisitEntry → RevisitEntry) (r : RevisitScheduler) :
    (modEntry tag f r).lane = r.lane := by unfold modEntry; split <;> rfl
@[simp] theorem modEntry_timer (tag : Nat) (f : RevisitEntry → RevisitEntry) (r : RevisitScheduler) :
    (modEntry tag f r).timer = r.timer := by unfold modEntry; split <;> rfl
@[simp] theorem modEntry_corrections (tag : Nat) (f : RevisitEntry → RevisitEntry) (r : RevisitScheduler) :
    (modEntry tag f r).corrections = r.corrections := by unfold modEntry; split <;> rfl
@[simp] theorem modEntry_cursor (tag : Nat) (f : RevisitEntry → RevisitEntry) (r : RevisitScheduler) :
    (modEntry tag f r).cursor = r.cursor := by unfold modEntry; split <;> rfl
@[simp] theorem modEntry_remaining (tag : Nat) (f : RevisitEntry → RevisitEntry) (r : RevisitScheduler) :
    (modEntry tag f r).remaining = r.remaining := by unfold modEntry; split <;> rfl

@[simp] theorem queueHead_defects (tag : Nat) (r : RevisitScheduler) : (queueHead tag r).defects = r.defects := rfl
@[simp] theorem queueHead_session (tag : Nat) (r : RevisitScheduler) : (queueHead tag r).session = r.session := rfl
@[simp] theorem queueHead_table (tag : Nat) (r : RevisitScheduler) : (queueHead tag r).table = r.table := rfl
@[simp] theorem queueHead_lane (tag : Nat) (r : RevisitScheduler) : (queueHead tag r).lane = r.lane := rfl
@[simp] theorem queueHead_timer (tag : Nat) (r : RevisitScheduler) : (queueHead tag r).timer = r.timer := rfl
@[simp] theorem queueHead_corrections (tag : Nat) (r : RevisitScheduler) : (queueHead tag r).corrections = r.corrections := rfl
@[simp] theorem queueHead_cursor (tag : Nat) (r : RevisitScheduler) : (queueHead tag r).cursor = r.cursor := rfl
@[simp] theorem queueHead_remaining (tag : Nat) (r : RevisitScheduler) : (queueHead tag r).remaining = r.remaining := rfl

@[simp] theorem laneHead_defects (tag : Nat) (r : RevisitScheduler) : (laneHead tag r).defects = r.defects := rfl
@[simp] theorem laneHead_session (tag : Nat) (r : RevisitScheduler) : (laneHead tag r).session = r.session := rfl
@[simp] theorem laneHead_table (tag : Nat) (r : RevisitScheduler) : (laneHead tag r).table = r.table := rfl
@[simp] theorem laneHead_queue (tag : Nat) (r : RevisitScheduler) : (laneHead tag r).queue = r.queue := rfl
@[simp] theorem laneHead_timer (tag : Nat) (r : RevisitScheduler) : (laneHead tag r).timer = r.timer := rfl
@[simp] theorem laneHead_corrections (tag : Nat) (r : RevisitScheduler) : (laneHead tag r).corrections = r.corrections := rfl
@[simp] theorem laneHead_cursor (tag : Nat) (r : RevisitScheduler) : (laneHead tag r).cursor = r.cursor := rfl
@[simp] theorem laneHead_remaining (tag : Nat) (r : RevisitScheduler) : (laneHead tag r).remaining = r.remaining := rfl

@[simp] theorem laneTail_defects (tag : Nat) (r : RevisitScheduler) : (laneTail tag r).defects = r.defects := rfl
@[simp] theorem laneTail_session (tag : Nat) (r : RevisitScheduler) : (laneTail tag r).session = r.session := rfl
@[simp] theorem laneTail_table (tag : Nat) (r : RevisitScheduler) : (laneTail tag r).table = r.table := rfl
@[simp] theorem laneTail_queue (tag : Nat) (r : RevisitScheduler) : (laneTail tag r).queue = r.queue := rfl
@[simp] theorem laneTail_timer (tag : Nat) (r : RevisitScheduler) : (laneTail tag r).timer = r.timer := rfl
@[simp] theorem laneTail_corrections (tag : Nat) (r : RevisitScheduler) : (laneTail tag r).corrections = r.corrections := rfl
@[simp] theorem laneTail_cursor (tag : Nat) (r : RevisitScheduler) : (laneTail tag r).cursor = r.cursor := rfl
@[simp] theorem laneTail_remaining (tag : Nat) (r : RevisitScheduler) : (laneTail tag r).remaining = r.remaining := rfl

@[simp] theorem startTimer_defects (n : Nat) (r : RevisitScheduler) : (startTimer n r).defects = r.defects := rfl
@[simp] theorem startTimer_session (n : Nat) (r : RevisitScheduler) : (startTimer n r).session = r.session := rfl
@[simp] theorem startTimer_table (n : Nat) (r : RevisitScheduler) : (startTimer n r).table = r.table := rfl
@[simp] theorem startTimer_queue (n : Nat) (r : RevisitScheduler) : (startTimer n r).queue = r.queue := rfl
@[simp] theorem startTimer_lane (n : Nat) (r : RevisitScheduler) : (startTimer n r).lane = r.lane := rfl
@[simp] theorem startTimer_corrections (n : Nat) (r : RevisitScheduler) : (startTimer n r).corrections = r.corrections := rfl
@[simp] theorem startTimer_cursor (n : Nat) (r : RevisitScheduler) : (startTimer n r).cursor = r.cursor := rfl
@[simp] theorem startTimer_remaining (n : Nat) (r : RevisitScheduler) : (startTimer n r).remaining = r.remaining := rfl

@[simp] theorem stopTimer_defects (r : RevisitScheduler) : (stopTimer r).defects = r.defects := rfl
@[simp] theorem stopTimer_session (r : RevisitScheduler) : (stopTimer r).session = r.session := rfl
@[simp] theorem stopTimer_table (r : RevisitScheduler) : (stopTimer r).table = r.table := rfl
@[simp] theorem stopTimer_queue (r : RevisitScheduler) : (stopTimer r).queue = r.queue := rfl
@[simp] theorem stopTimer_lane (r : RevisitScheduler) : (stopTimer r).lane = r.lane := rfl
@[simp] theorem stopTimer_corrections (r : RevisitScheduler) : (stopTimer r).corrections = r.corrections := rfl
@[simp] theorem stopTimer_cursor (r : RevisitScheduler) : (stopTimer r).cursor = r.cursor := rfl
@[simp] theorem stopTimer_remaining (r : RevisitScheduler) : (stopTimer r).remaining = r.remaining := rfl

@[simp] theorem modTallies_defects (f : WaferTallies → WaferTallies) (r : RevisitScheduler) :
    (modTallies f r).defects = r.defects := rfl
@[simp] theorem modTallies_table (f : WaferTallies → WaferTallies) (r : RevisitScheduler) :
    (modTallies f r).table = r.table := rfl
@[simp] theorem modTallies_queue (f : WaferTallies → WaferTallies) (r : RevisitScheduler) :
    (modTallies f r).queue = r.queue := rfl
@[simp] theorem modTallies_lane (f : WaferTallies → WaferTallies) (r : RevisitScheduler) : (modTallies f r).lane = r.lane := rfl
@[simp] theorem modTallies_timer (f : WaferTallies → WaferTallies) (r : RevisitScheduler) :
    (modTallies f r).timer = r.timer := rfl
@[simp] theorem modTallies_corrections (f : WaferTallies → WaferTallies) (r : RevisitScheduler) :
    (modTallies f r).corrections = r.corrections := rfl
@[simp] theorem modTallies_cursor (f : WaferTallies → WaferTallies) (r : RevisitScheduler) :
    (modTallies f r).cursor = r.cursor := rfl
@[simp] theorem modTallies_remaining (f : WaferTallies → WaferTallies) (r : RevisitScheduler) :
    (modTallies f r).remaining = r.remaining := rfl

@[simp] theorem dropQueued_defects (r : RevisitScheduler) : (dropQueued r).defects = r.defects := rfl
@[simp] theorem dropQueued_timer (r : RevisitScheduler) : (dropQueued r).timer = r.timer := rfl
@[simp] theorem dropQueued_corrections (r : RevisitScheduler) : (dropQueued r).corrections = r.corrections := rfl
@[simp] theorem dropQueued_cursor (r : RevisitScheduler) : (dropQueued r).cursor = r.cursor := rfl
@[simp] theorem dropQueued_remaining (r : RevisitScheduler) : (dropQueued r).remaining = r.remaining := rfl

@[simp] theorem siteFree_zones (f : FocusEngine) : (siteFree f).zones = f.zones := rfl
@[simp] theorem siteFree_stats (f : FocusEngine) : (siteFree f).stats = f.stats := rfl
@[simp] theorem siteFree_capability (f : FocusEngine) : (siteFree f).capability = f.capability := rfl

@[simp] theorem modStats_context (g : FocusStats → FocusStats) (f : FocusEngine) : (modStats g f).context = f.context := rfl
@[simp] theorem modStats_zones (g : FocusStats → FocusStats) (f : FocusEngine) : (modStats g f).zones = f.zones := rfl
@[simp] theorem modStats_capability (g : FocusStats → FocusStats) (f : FocusEngine) :
    (modStats g f).capability = f.capability := rfl

end Sys2Proof.Machine
end

