-- ==== Sys2Proof/Laws/Posting.lean ====
section
/-! SUPPORT. What each shared operation of record intake and of served reads does, said once in the terms of Safety.lean. -/

namespace Sys2Proof.Machine

/-- The state an owner of a staged slot decides a record in: the burst passed, its share merged, the slot's marks cleared (R7 to
R9). -/
def offeredState (slot : StagedSlot) (b : WriteBurst) (s : State) : State :=
  { s with
    traffic := passedTraffic b
    pi := setBuffer slot { words := recordWords slot b s, marks := Vector.replicate 8 false } s.pi }

/-- The state an owner of a bulk slot decides a line in: the burst passed (R12). -/
def claimedState (b : WriteBurst) (s : State) : State :=
  { s with traffic := passedTraffic b }

/-- The refusal count after any post. -/
theorem postFields_eq (slot : Nat) (tag : BitVec 8) (o : PostOutcome) (p : PathInterface) :
    postFields slot tag o p =
      { p with
        lastPost := { slot := slot, tag := tag, outcome := some o }
        refusals := if o = .taken then p.refusals else min (p.refusals + 1) 65535 } := rfl

/-- A post recorded TAKEN (R11). -/
theorem recordPost_taken (slot : Nat) (tag : BitVec 8) (s : State) :
    recordPost slot tag .taken s = { s with pi := { s.pi with lastPost := { slot := slot, tag := tag, outcome := some .taken } } } :=
  rfl

/-- A refusal recorded (R11). -/
theorem recordPost_refused (slot : Nat) (tag : BitVec 8) {o : PostOutcome} (h : o ≠ .taken) (s : State) :
    recordPost slot tag o s =
      { s with
        pi := { s.pi with
          lastPost := { slot := slot, tag := tag, outcome := some o }
          refusals := min (s.pi.refusals + 1) 65535 }
        ru := refusedReports slot tag o s } := by
  simp [recordPost, postFields, refusalIn, h, refusedReports, raiseIn, syncAttn, holdUp, Config.hold16]

theorem passesBy_of_decoded {h : BurstHeader} {s : State} (hd : Decoded h s) : passesBy s.pi h = false := by
  simp [passesBy, hd.1, hd.2]

theorem passesBy_of_not_decoded {h : BurstHeader} {s : State} (hd : ¬ Decoded h s) : passesBy s.pi h = true := by
  simp only [Decoded, not_and, Bool.not_eq_true] at hd
  cases hb : s.pi.bypass <;> simp_all [passesBy]

theorem stagedActive_iff {slot : StagedSlot} {s : State} (hb : s.pi.bypass = false) :
    stagedActive s.pi slot = true ↔ Active slot s := by
  simp [stagedActive, hb, Active]

/-- What the part does with the share of a burst in a staged slot as the burst arrives. -/
abbrev stagedOn (owners : OwnerTable) (slot : StagedSlot) (b : WriteBurst) (s : State) : State :=
  stagedStep owners (roleOf s.pi b.header) slot b (passWrite b b.beats s)

/-- What the part does with the share of a burst in the mailbox as the burst arrives. -/
abbrev mailboxOn (judge : CommandJudge) (b : WriteBurst) (s : State) : State :=
  mailboxStep judge (roleOf s.pi b.header) b (passWrite b b.beats s)

/-- What the part does with the share of a burst in a bulk slot as the burst arrives. -/
abbrev bulkOn (own : Owner) (slot : BulkSlot) (b : WriteBurst) (s : State) : State :=
  bulkStep own (roleOf s.pi b.header) slot b (passWrite b b.beats s)

theorem passWrite_eq (b : WriteBurst) (s : State) : passWrite b b.beats s = { s with traffic := passedTraffic b } := rfl

/-- The share of a slot that is not active has no effect (R4). -/
theorem stagedStep_inactive (owners : OwnerTable) (slot : StagedSlot) (b : WriteBurst) (s : State) (h : Decoded b.header s)
    (ha : ¬ Active slot s) :
    stagedOn owners slot b s = { s with traffic := passedTraffic b } := by
  have : stagedActive s.pi slot = false := by rw [← Bool.not_eq_true, stagedActive_iff h.1]; exact ha
  simp [stagedStep, this, passWrite_eq]

/-- A share without a post is merged, or only passes when the writer may not write the slot (R6, R7). -/
theorem stagedStep_merge (owners : OwnerTable) (slot : StagedSlot) (b : WriteBurst) (s : State) (h : Decoded b.header s)
    (ha : Active slot s) (hp : isPost (stagedShare slot b s) = false) :
    stagedOn owners slot b s =
      { s with
        traffic := passedTraffic b
        pi := setBuffer slot (if mayWrite s.pi.part slot (roleOf s.pi b.header) = true then mergedBuffer slot b s
          else bufferOf s.pi slot) s.pi } := by
  have : stagedActive s.pi slot = true := (stagedActive_iff h.1).2 ha
  have hp' : isPost (shareOf s.pi.window (stagedNumber slot) b) = false := hp
  simp only [stagedStep, passWrite_pi, this, hp', if_true, Bool.false_eq_true, if_false]
  rfl

/-- A post by a role that may not write the slot (R6, R8, R9). -/
theorem stagedStep_foreign (owners : OwnerTable) (slot : StagedSlot) (b : WriteBurst) (s : State) (h : Posts slot b s)
    (hm : ¬ MayWrite slot b s) : stagedOn owners slot b s = foreignPost slot b s := by
  obtain ⟨hd, ha, -, hp⟩ := h
  have h1 : stagedActive s.pi slot = true := (stagedActive_iff hd.1).2 ha
  have h2 : isPost (shareOf s.pi.window (stagedNumber slot) b) = true := hp
  have h3 : mayWrite s.pi.part slot (roleOf s.pi b.header) = false := by simpa [MayWrite] using hm
  simp [stagedStep, h1, h2, postShare, judgePost, refuse, h3, recordPost_refused, foreignPost, foreignTag, tagWord, mergeShare,
    passWrite_eq, stagedShare, setBuffer, clearMarks, refusedReports, postedInterface]

/-- A permitted writer's post: the three checks, then the owner (R9, R11). -/
theorem stagedStep_permitted (owners : OwnerTable) (slot : StagedSlot) (b : WriteBurst) (s : State) (h : Posts slot b s)
    (hm : MayWrite slot b s) :
    stagedOn owners slot b s =
      recordPost (stagedNumber slot) (recordTag slot b s)
        (judgePost owners true (mergedBuffer slot b s) (offeredState slot b s)).1
        (judgePost owners true (mergedBuffer slot b s) (offeredState slot b s)).2 := by
  obtain ⟨hd, ha, -, hp⟩ := h
  have h1 : stagedActive s.pi slot = true := (stagedActive_iff hd.1).2 ha
  have h2 : isPost (shareOf s.pi.window (stagedNumber slot) b) = true := hp
  have h3 : mayWrite s.pi.part slot (roleOf s.pi b.header) = true := hm
  simp only [stagedStep, passWrite_pi, h1, h2, if_true, postShare, h3, tagWord, mergeShare]
  rfl

/-- A record that passes the three checks goes to its owner (R9). -/
theorem stagedStep_offers {owners : OwnerTable} {slot : StagedSlot} {k : RecordKind} {b : WriteBurst} {s : State} {own : Owner}
    (h : Offers slot k b s) (ho : owners k = some own) :
    stagedOn owners slot b s =
      recordPost (stagedNumber slot) (recordTag slot b s)
        (own (recordWords slot b s) (offeredState slot b s)).1 (own (recordWords slot b s) (offeredState slot b s)).2 := by
  obtain ⟨hp, hm, hk, hc⟩ := h
  have hk' : postKind (mergedBuffer slot b s).words[7] = some k := hk
  have hc' : complete k (mergedBuffer slot b s) = true := by simpa [complete] using hc
  rw [stagedStep_permitted owners slot b s hp hm]
  simp only [judgePost, hk', ho, hc', if_true, recordWords]

/-- A record taken by its owner. -/
theorem stagedStep_take {owners : OwnerTable} {slot : StagedSlot} {k : RecordKind} {b : WriteBurst} {s t : State} {own : Owner}
    (h : Offers slot k b s) (ho : owners k = some own)
    (hd : own (recordWords slot b s) (offeredState slot b s) = (.taken, t)) :
    stagedOn owners slot b s =
      { t with
        pi := { t.pi with
          lastPost := { slot := stagedNumber slot, tag := recordTag slot b s, outcome := some .taken } } } := by
  rw [stagedStep_offers h ho, hd, recordPost_taken]

/-- A record refused by its owner (R9, R11). -/
theorem stagedStep_refuse {owners : OwnerTable} {slot : StagedSlot} {k : RecordKind} {b : WriteBurst} {s : State} {own : Owner}
    {o : PostOutcome} (h : Offers slot k b s) (ho : owners k = some own) (hn : o ≠ .taken)
    (hd : own (recordWords slot b s) (offeredState slot b s) = (o, offeredState slot b s)) :
    stagedOn owners slot b s = refusedPost slot b o s := by
  rw [stagedStep_offers h ho, hd, recordPost_refused _ _ hn]
  simp [offeredState, setBuffer, refusedPost, postedInterface, refusedReports, hn]

/-- A post of a kind the slot does not accept (R9). -/
theorem stagedStep_unknownKind {owners : OwnerTable} {slot : StagedSlot} {b : WriteBurst} {s : State} (h : Posts slot b s)
    (hm : MayWrite slot b s) (hk : ∀ k, postKind (recordWords slot b s)[7] = some k → owners k = none) :
    stagedOn owners slot b s = refusedPost slot b .unknownKind s := by
  have hj : judgePost owners true (mergedBuffer slot b s) (offeredState slot b s) = (.unknownKind, offeredState slot b s) := by
    simp only [judgePost, if_true]
    cases hc : postKind (mergedBuffer slot b s).words[7] with
    | none => rfl
    | some k => simp only [hk k hc]; rfl
  rw [stagedStep_permitted owners slot b s h hm, hj, recordPost_refused (o := .unknownKind) _ _ (by decide)]
  simp [offeredState, setBuffer, refusedPost, postedInterface, refusedReports]

/-- A post of an incomplete record (R9). -/
theorem stagedStep_incomplete {owners : OwnerTable} {slot : StagedSlot} {k : RecordKind} {b : WriteBurst} {s : State} {own : Owner}
    (h : Posts slot b s) (hm : MayWrite slot b s) (hk : postKind (recordWords slot b s)[7] = some k) (ho : owners k = some own)
    (hc : ∃ w ∈ usedWords k, (mergedBuffer slot b s).marks[w] = false) :
    stagedOn owners slot b s = refusedPost slot b .incomplete s := by
  have hk' : postKind (mergedBuffer slot b s).words[7] = some k := hk
  have hc' : complete k (mergedBuffer slot b s) = false := by
    simp only [complete, List.all_eq_false]
    obtain ⟨w, hw, hf⟩ := hc
    exact ⟨w, hw, by simp [hf]⟩
  have hj : judgePost owners true (mergedBuffer slot b s) (offeredState slot b s) = (.incomplete, offeredState slot b s) := by
    simp only [judgePost, hk', ho, hc', if_true, Bool.false_eq_true, if_false]; rfl
  rw [stagedStep_permitted owners slot b s h hm, hj, recordPost_refused (o := .incomplete) _ _ (by decide)]
  simp [offeredState, setBuffer, refusedPost, postedInterface, refusedReports]

/-! ## The mailbox (R10) -/

theorem mailboxStep_inactive (judge : CommandJudge) (b : WriteBurst) (s : State) (h : Decoded b.header s)
    (ha : ¬ Active .mailbox s) :
    mailboxOn judge b s = { s with traffic := passedTraffic b } := by
  have : stagedActive s.pi .mailbox = false := by rw [← Bool.not_eq_true, stagedActive_iff h.1]; exact ha
  simp [mailboxStep, this, passWrite_eq]

theorem mailboxStep_merge (judge : CommandJudge) (b : WriteBurst) (s : State) (h : Decoded b.header s) (ha : Active .mailbox s)
    (hp : isPost (stagedShare .mailbox b s) = false) :
    mailboxOn judge b s =
      { s with
        traffic := passedTraffic b
        pi := setBuffer .mailbox (if mayWrite s.pi.part .mailbox (roleOf s.pi b.header) = true then mergedBuffer .mailbox b s
          else bufferOf s.pi .mailbox) s.pi } := by
  have : stagedActive s.pi .mailbox = true := (stagedActive_iff h.1).2 ha
  have hp' : isPost (shareOf s.pi.window (stagedNumber .mailbox) b) = false := hp
  simp only [mailboxStep, passWrite_pi, this, hp', if_true, Bool.false_eq_true, if_false]
  rfl

/-- The state after a command is rewritten. -/
theorem rewriteCommand_eq (b : WriteBurst) (s : State) (words : Line) (tag : BitVec 8) (reason : RewriteReason) {o : PostOutcome}
    (hn : o ≠ .taken) (t : State) (ht : t = { s with
      traffic := passedTraffic b
      pi := setBuffer .mailbox { words := words, marks := Vector.replicate 8 false } s.pi }) :
    rewriteCommand b tag reason o t = rewrittenPost words tag reason o b s := by
  subst ht
  rw [rewriteCommand, recordPost_refused _ _ hn]
  simp [recordRewrite, raiseIn, syncAttn, passWrite, refusedReports, rewrittenPost, writeTraffic, Traffic.none, setBuffer,
    postedInterface, hn, stagedNumber]

/-- A mailbox post by a role other than SUPERVISOR (R10). -/
theorem mailboxStep_foreign (judge : CommandJudge) (b : WriteBurst) (s : State) (h : Posts .mailbox b s)
    (hm : ¬ MayWrite .mailbox b s) :
    mailboxOn judge b s =
      rewrittenPost (bufferOf s.pi .mailbox).words (foreignTag .mailbox b s) .notPermitted .notPermitted b s := by
  obtain ⟨hd, ha, -, hp⟩ := h
  have h1 : stagedActive s.pi .mailbox = true := (stagedActive_iff hd.1).2 ha
  have h2 : isPost (shareOf s.pi.window (stagedNumber .mailbox) b) = true := hp
  have h3 : mayWrite s.pi.part .mailbox (roleOf s.pi b.header) = false := by simpa [MayWrite] using hm
  simp only [mailboxStep, passWrite_pi, h1, h2, if_true, Bool.false_eq_true, if_false, h3, judgeMailbox, mergeShare, tagWord,
    clearMarks]
  exact rewriteCommand_eq b s _ _ _ (by decide) _ rfl

/-- A permitted post of the mailbox: the kind, the marks, then the Wafer Tracker (R10). -/
theorem mailboxStep_permitted (judge : CommandJudge) (b : WriteBurst) (s : State) (h : Posts .mailbox b s)
    (hm : MayWrite .mailbox b s) :
    mailboxOn judge b s =
      judgeMailbox judge true b (recordTag .mailbox b s) (mergedBuffer .mailbox b s) (offeredState .mailbox b s) := by
  obtain ⟨hd, ha, -, hp⟩ := h
  have h1 : stagedActive s.pi .mailbox = true := (stagedActive_iff hd.1).2 ha
  have h2 : isPost (shareOf s.pi.window (stagedNumber .mailbox) b) = true := hp
  have h3 : mayWrite s.pi.part .mailbox (roleOf s.pi b.header) = true := hm
  simp only [mailboxStep, passWrite_pi, h1, h2, if_true, h3, mergeShare, tagWord]
  rfl

theorem mailboxStep_wrongKind (judge : CommandJudge) (b : WriteBurst) (s : State) (h : Posts .mailbox b s)
    (hm : MayWrite .mailbox b s) (hk : postKind (recordWords .mailbox b s)[7] ≠ some .handlerCommand) :
    mailboxOn judge b s =
      rewrittenPost (recordWords .mailbox b s) (recordTag .mailbox b s) .malformed .unknownKind b s := by
  rw [mailboxStep_permitted judge b s h hm]
  have hk' : postKind (mergedBuffer .mailbox b s).words[7] ≠ some .handlerCommand := hk
  simp only [judgeMailbox, if_true, hk', if_false]
  exact rewriteCommand_eq b s _ _ _ (by decide) _ rfl

theorem mailboxStep_incomplete (judge : CommandJudge) (b : WriteBurst) (s : State) (h : Posts .mailbox b s)
    (hm : MayWrite .mailbox b s) (hk : postKind (recordWords .mailbox b s)[7] = some .handlerCommand)
    (hc : ∃ w ∈ usedWords .handlerCommand, (mergedBuffer .mailbox b s).marks[w] = false) :
    mailboxOn judge b s =
      rewrittenPost (recordWords .mailbox b s) (recordTag .mailbox b s) .malformed .incomplete b s := by
  rw [mailboxStep_permitted judge b s h hm]
  have hk' : postKind (mergedBuffer .mailbox b s).words[7] = some .handlerCommand := hk
  have hc' : complete .handlerCommand (mergedBuffer .mailbox b s) = false := by
    simp only [complete, List.all_eq_false]
    obtain ⟨w, hw, hf⟩ := hc
    exact ⟨w, hw, by simp [hf]⟩
  simp only [judgeMailbox, if_true, hk', hc', Bool.false_eq_true, if_false]
  exact rewriteCommand_eq b s _ _ _ (by decide) _ rfl

/-- A command handed to the Wafer Tracker that passes (R10, R46). -/
theorem mailboxStep_pass {judge : CommandJudge} {b : WriteBurst} {s t : State} (h : Offers .mailbox .handlerCommand b s)
    (hj : judge (recordWords .mailbox b s) (recordTag .mailbox b s) (offeredState .mailbox b s) = .ok t) :
    mailboxOn judge b s =
      { t with
        pi := { t.pi with lastPost := { slot := 192, tag := recordTag .mailbox b s, outcome := some .taken } } } := by
  obtain ⟨hp, hm, hk, hc⟩ := h
  rw [mailboxStep_permitted judge b s hp hm]
  have hk' : postKind (mergedBuffer .mailbox b s).words[7] = some .handlerCommand := hk
  have hc' : complete .handlerCommand (mergedBuffer .mailbox b s) = true := by simpa [complete] using hc
  have hj' : judge (mergedBuffer .mailbox b s).words (recordTag .mailbox b s) (offeredState .mailbox b s) = .ok t := hj
  simp only [judgeMailbox, if_true, hk', hc', hj', recordPost_taken]
  rfl

/-- A command handed to the Wafer Tracker that it rewrites (R10). -/
theorem mailboxStep_rewrite {judge : CommandJudge} {b : WriteBurst} {s : State} {reason : RewriteReason}
    (h : Offers .mailbox .handlerCommand b s)
    (hj : judge (recordWords .mailbox b s) (recordTag .mailbox b s) (offeredState .mailbox b s) = .error reason) :
    mailboxOn judge b s =
      rewrittenPost (recordWords .mailbox b s) (recordTag .mailbox b s) reason .wrongState b s := by
  obtain ⟨hp, hm, hk, hc⟩ := h
  rw [mailboxStep_permitted judge b s hp hm]
  have hk' : postKind (mergedBuffer .mailbox b s).words[7] = some .handlerCommand := hk
  have hc' : complete .handlerCommand (mergedBuffer .mailbox b s) = true := by simpa [complete] using hc
  have hj' : judge (mergedBuffer .mailbox b s).words (recordTag .mailbox b s) (offeredState .mailbox b s) = .error reason := hj
  simp only [judgeMailbox, if_true, hk', hc', hj']
  exact rewriteCommand_eq b s _ _ _ (by decide) _ rfl

/-! ## Bulk slots (R12) -/

theorem bulkStep_noClaim (own : Owner) (slot : BulkSlot) (b : WriteBurst) (s : State)
    (hc : s.pi.part ≠ .ready ∨ bulkShare slot b s = []) : bulkOn own slot b s = { s with traffic := passedTraffic b } := by
  have : ¬ (s.pi.part = .ready ∧ shareOf s.pi.window (bulkNumber slot) b ≠ []) := by
    rintro ⟨h1, h2⟩
    rcases hc with hc | hc
    · exact hc h1
    · exact h2 hc
  simp only [bulkStep, this, if_false, passWrite_eq]

/-- A claim is decided and recorded with tag 0 (R11, R12). -/
theorem bulkStep_claim (own : Owner) (slot : BulkSlot) (b : WriteBurst) (s : State) (h : Claims slot b s) :
    bulkOn own slot b s =
      recordPost (bulkNumber slot) 0 (judgeBulk own (roleOf s.pi b.header) b.header (bulkShare slot b s) (claimedState b s)).1
        (judgeBulk own (roleOf s.pi b.header) b.header (bulkShare slot b s) (claimedState b s)).2 := by
  obtain ⟨-, hr, -, hs⟩ := h
  have hs' : s.pi.part = .ready ∧ shareOf s.pi.window (bulkNumber slot) b ≠ [] := ⟨hr, hs⟩
  simp only [bulkStep, passWrite_pi, hs', and_self, if_true, ne_eq, not_false_eq_true]
  rfl

theorem bulkStep_foreign (own : Owner) (slot : BulkSlot) (b : WriteBurst) (s : State) (h : Claims slot b s)
    (hr : roleOf s.pi b.header ≠ .supervisor) : bulkOn own slot b s = refusedClaim slot b .notPermitted s := by
  have hj : judgeBulk own (roleOf s.pi b.header) b.header (bulkShare slot b s) (claimedState b s) = (.notPermitted, claimedState b s) := by
    simp only [judgeBulk, hr, if_false]; rfl
  rw [bulkStep_claim own slot b s h, hj, recordPost_refused (o := .notPermitted) _ _ (by decide)]
  simp [claimedState, refusedClaim, refusedReports]

theorem bulkStep_partial (own : Owner) (slot : BulkSlot) (b : WriteBurst) (s : State) (h : Claims slot b s)
    (hr : roleOf s.pi b.header = .supervisor) (hf : fullLine b.header (bulkShare slot b s) = false) :
    bulkOn own slot b s = refusedClaim slot b .partialLine s := by
  have hj : judgeBulk own (roleOf s.pi b.header) b.header (bulkShare slot b s) (claimedState b s) = (.partialLine, claimedState b s) := by
    simp only [judgeBulk, hr, hf, if_true, Bool.false_eq_true, if_false]; rfl
  rw [bulkStep_claim own slot b s h, hj, recordPost_refused (o := .partialLine) _ _ (by decide)]
  simp [claimedState, refusedClaim, refusedReports]

/-- A full line goes to its owner (R12). -/
theorem bulkStep_full {own : Owner} {slot : BulkSlot} {b : WriteBurst} {s : State} (h : FullClaim slot b s) :
    bulkOn own slot b s =
      recordPost (bulkNumber slot) 0 (own (claimWords slot b s) (claimedState b s)).1
        (own (claimWords slot b s) (claimedState b s)).2 := by
  obtain ⟨hc, hr, hf⟩ := h
  rw [bulkStep_claim own slot b s hc]
  simp only [judgeBulk, hr, hf, if_true, claimWords]

theorem bulkStep_take {own : Owner} {slot : BulkSlot} {b : WriteBurst} {s t : State} (h : FullClaim slot b s)
    (hd : own (claimWords slot b s) (claimedState b s) = (.taken, t)) :
    bulkOn own slot b s =
      { t with pi := { t.pi with lastPost := { slot := bulkNumber slot, tag := 0, outcome := some .taken } } } := by
  rw [bulkStep_full h, hd, recordPost_taken]

theorem bulkStep_refuse {own : Owner} {slot : BulkSlot} {b : WriteBurst} {s : State} {o : PostOutcome} (h : FullClaim slot b s)
    (hn : o ≠ .taken) (hd : own (claimWords slot b s) (claimedState b s) = (o, claimedState b s)) :
    bulkOn own slot b s = refusedClaim slot b o s := by
  rw [bulkStep_full h, hd, recordPost_refused _ _ hn]
  simp [claimedState, refusedClaim, refusedReports]

/-! ## Served reads (R13 to R16) -/

theorem readPlace_outside {r : ReadBurst} {s : State} (h : ¬ Decoded r.header s) : readPlace s.pi r = .memory := by
  simp [readPlace, passesBy_of_not_decoded h]

/-- The active served slot at an address. -/
theorem servedAt_eq {s : State} (hb : s.pi.bypass = false) (a : Nat) :
    servedAt s.pi a =
      match servedOfNumber (slotOfAddr s.pi.window a) with
      | some z => if s.pi.part = .ready ∨ z = .status then some z else none
      | none => none := by
  unfold servedAt
  cases servedOfNumber (slotOfAddr s.pi.window a) with
  | none => rfl
  | some z =>
    simp only [Option.filter, servedActive, hb, Bool.not_false, Bool.true_and]
    by_cases h : s.pi.part = .ready ∨ z = .status <;> simp [h]

/-- A read wholly inside one active served slot (R13). -/
theorem readPlace_served {z : ServedSlot} {r : ReadBurst} {s : State} (h : ReadsSlot z r s) : readPlace s.pi r = .served z := by
  obtain ⟨hd, ha, hn, hall⟩ := h
  have hat : ∀ a ∈ readAddrs r, servedAt s.pi a = some z := by
    intro a hm
    rw [servedAt_eq hd.1, hall a hm]
    simp only [ha, if_true]
  have hmap : (readAddrs r).map (servedAt s.pi) = (readAddrs r).map fun _ => some z := List.map_congr_left hat
  simp only [readPlace, passesBy_of_decoded hd, Bool.false_eq_true, if_false, hmap]
  cases hra : readAddrs r with
  | nil => exact absurd hra hn
  | cons a rest => simp

/-- A read with no beat in an active served slot (R2, R4, R13). -/
theorem readPlace_memory {r : ReadBurst} {s : State} (hd : Decoded r.header s) (h : ∀ a ∈ readAddrs r, servedAt s.pi a = none) :
    readPlace s.pi r = .memory := by
  have hmap : (readAddrs r).map (servedAt s.pi) = (readAddrs r).map fun _ => none := List.map_congr_left h
  simp only [readPlace, passesBy_of_decoded hd, Bool.false_eq_true, if_false, hmap]
  cases readAddrs r with
  | nil => rfl
  | cons a rest => simp

/-- A read with beats on both sides of an active served slot's edge (R15). -/
theorem readPlace_straddling {r : ReadBurst} {s : State} (hd : Decoded r.header s) {z : ServedSlot} {a c : Nat}
    (ha : a ∈ readAddrs r) (hz : servedAt s.pi a = some z) (hc : c ∈ readAddrs r) (hne : servedAt s.pi c ≠ some z) :
    readPlace s.pi r = .straddling := by
  simp only [readPlace, passesBy_of_decoded hd, Bool.false_eq_true, if_false]
  have ha' : some z ∈ (readAddrs r).map (servedAt s.pi) := List.mem_map.2 ⟨a, ha, hz⟩
  have hc' : servedAt s.pi c ∈ (readAddrs r).map (servedAt s.pi) := List.mem_map.2 ⟨c, hc, rfl⟩
  cases hl : (readAddrs r).map (servedAt s.pi) with
  | nil => rw [hl] at ha'; simp at ha'
  | cons y rest =>
    rw [hl] at ha' hc'
    have : rest.all (· == y) = false := by
      rw [List.all_eq_false]
      by_cases hy : y = some z
      · subst hy
        rcases List.mem_cons.1 hc' with h | h
        · exact absurd h hne
        · exact ⟨_, h, by simpa using hne⟩
      · rcases List.mem_cons.1 ha' with h | h
        · exact absurd h.symm hy
        · exact ⟨_, h, by simpa using (Ne.symm hy)⟩
    simp [this]

theorem readStep_memory (serve : ServedSlot → Serve) (first count : Nat) (r : ReadBurst) (s : State)
    (h : readPlace s.pi r = .memory) : readStep serve first count r s = { s with traffic := memoryTraffic r } := by
  simp [readStep, h, passRead, memoryTraffic, Traffic.none]

theorem readStep_straddling (serve : ServedSlot → Serve) (first count : Nat) (r : ReadBurst) (s : State)
    (h : readPlace s.pi r = .straddling) : readStep serve first count r s = refuseRead r s := by simp [readStep, h]

/-- A read of a served slot other than the report window is answered from one record (R13). -/
theorem readStep_served {serve : ServedSlot → Serve} {first count : Nat} {z : ServedSlot} {r : ReadBurst} {s : State}
    (hz : z ≠ .reportWindow) (h : ReadsSlot z r s) :
    readStep serve first count r s =
      { (serve z (roleOf s.pi r.header) s).2 with
        traffic := recordTraffic r (serve z (roleOf s.pi r.header) s).1 } := by
  cases z <;> simp_all [readStep, readPlace_served h, answerRead, recordTraffic, answerTraffic, recordBeats, readBeat, Traffic.none]

theorem readStep_window {serve : ServedSlot → Serve} {first count : Nat} {r : ReadBurst} {s : State}
    (h : ReadsSlot .reportWindow r s) : readStep serve first count r s = popWindow r first count s := by
  simp [readStep, readPlace_served h]

/-- The row's own answer is the table's. -/
theorem servedWith_self (z : ServedSlot) : servedWith z (serveTable z) = serveTable := by
  funext y
  unfold servedWith
  split
  · rename_i h; rw [h]
  · rfl

end Sys2Proof.Machine
end

