-- ==== Sys2Proof/Laws/Rows.lean ====
section
/-! SUPPORT. What `exec` is for each shape of command: every write command is the treatment of its burst and every read command the
answer to its burst, whatever the row (log 5); and what the treatment of a burst is when it has an effect in one slot, or in none. -/

namespace Sys2Proof.Machine

/-! ## The row's own decision is the table's -/

/-- Naming a slot's own decision changes nothing. -/
theorem withOwner_ownersOf {slot : StagedSlot} {k : RecordKind} {own : Owner} (h : ownersOf slot k = some own) :
    withOwner k own (ownersOf slot) = ownersOf slot := by
  funext j
  unfold withOwner
  split
  · rename_i hj; subst hj; exact h.symm
  · rfl

theorem withRecord_deciders {slot : StagedSlot} {k : RecordKind} {own : Owner} (h : ownersOf slot k = some own) :
    withRecord slot k own = deciders := by
  have : (fun t => if t = slot then withOwner k own (ownersOf t) else ownersOf t) = ownersOf := by
    funext t
    split
    · rename_i ht; subst ht; exact withOwner_ownersOf h
    · rfl
  simp only [withRecord, this, deciders]

/-- Naming a handler command's own decision changes nothing. -/
theorem commandWith_judgeByCode (v : Verb) (p : Place) : commandWith v p (judgeByCode v p) = judgeCommand := by
  funext w tag s
  unfold commandWith judgeCommand
  cases commandVerb w <;> cases commandPlace w <;> try rfl
  rename_i v' p'
  simp only
  split
  · rename_i h; obtain ⟨rfl, rfl⟩ := h; rfl
  · rfl

theorem withCommand_deciders (v : Verb) (p : Place) : withCommand v p (judgeByCode v p) = deciders := by
  simp only [withCommand, commandWith_judgeByCode, deciders]

/-- Naming a bulk slot's own decision changes nothing. -/
theorem withBulk_deciders (slot : BulkSlot) : withBulk slot (bulkOwner slot) = deciders := by
  have : (fun t => if t = slot then bulkOwner slot else bulkOwner t) = bulkOwner := by
    funext t
    split
    · rename_i ht; rw [ht]
    · rfl
  exact congrArg (fun f => { deciders with bulk := f }) this

/-! ## Commands by their bursts -/

/-- Every write command is the treatment of its burst. -/
theorem exec_write {c : Instr} {b : WriteBurst} (s : State) (h : writeTarget c = some b) : exec c s = .next (writeStep deciders b s) := by
  have m1 : withCommand .pick .carrier judgePickCarrier = deciders := withCommand_deciders .pick .carrier
  have m2 : withCommand .pick .aligner judgePickAligner = deciders := withCommand_deciders .pick .aligner
  have m3 : withCommand .pick .stage judgePickStage = deciders := withCommand_deciders .pick .stage
  have m4 : withCommand .place .aligner judgePlaceAligner = deciders := withCommand_deciders .place .aligner
  have m5 : withCommand .place .stage judgePlaceStage = deciders := withCommand_deciders .place .stage
  have m6 : withCommand .place .carrier judgePlaceCarrier = deciders := withCommand_deciders .place .carrier
  cases c <;> simp only [writeTarget, Option.some.injEq, reduceCtorEq] at h <;> subst h <;>
    first
      | rfl
      | exact congrArg (fun d => Host.Outcome.next (writeStep d _ s)) (withRecord_deciders rfl)
      | exact congrArg (fun d => Host.Outcome.next (writeStep d _ s)) (withBulk_deciders _)
      | simp only [exec, execPickCarrier, execPickAligner, execPickStage, execPlaceAligner, execPlaceStage, execPlaceCarrier, m1,
          m2, m3, m4, m5, m6]

/-- Every read command is a read burst that reaches the part. -/
theorem exec_read {c : Instr} {r : ReadBurst} (s : State) (h : readTarget c = some r) :
    ∃ first count, exec c s = .next (readStep serveTable first count r s) := by
  cases c <;> simp only [readTarget, Option.some.injEq, reduceCtorEq] at h <;> subst h
  · exact ⟨_, _, congrArg (fun v => Host.Outcome.next (readWhole v _ s)) (servedWith_self .target)⟩
  · exact ⟨_, _, congrArg (fun v => Host.Outcome.next (readWhole v _ s)) (servedWith_self .plan)⟩
  · exact ⟨_, _, congrArg (fun v => Host.Outcome.next (readWhole v _ s)) (servedWith_self .event)⟩
  · exact ⟨_, _, rfl⟩
  · exact ⟨_, _, rfl⟩

/-! ## The slots of a burst -/

@[simp] theorem stagedOfNumber_stagedNumber (slot : StagedSlot) : stagedOfNumber (stagedNumber slot) = some slot := by
  cases slot <;> first | rfl | (rename_i n; revert n; decide)

@[simp] theorem bulkOfNumber_bulkNumber (slot : BulkSlot) : bulkOfNumber (bulkNumber slot) = some slot := by
  cases slot with
  | tableStream => rfl
  | defect i =>
    have h1 : ¬ (1024 + i.val = 320) := by omega
    have h2 : 1024 ≤ 1024 + i.val ∧ 1024 + i.val < 5120 := ⟨by omega, by omega⟩
    simp [bulkOfNumber, bulkNumber, h1, h2]

@[simp] theorem stagedOfNumber_bulkNumber (slot : BulkSlot) : stagedOfNumber (bulkNumber slot) = none := by
  have none_of : ∀ n, 262 ≤ n → stagedOfNumber n = none := by
    intro n h
    have h1 : ¬ (65 ≤ n ∧ n ≤ 89) := by omega
    simp only [stagedOfNumber, dif_neg h1, List.find?_eq_none, decide_eq_true_eq]
    intro t ht
    have : stagedNumber t ≤ 261 := by revert ht; revert t; decide
    omega
  cases slot <;> exact none_of _ (by simp [bulkNumber]; try omega)

/-- A slot of the order is the slot of some beat. -/
theorem beat_of_mem_slotOrder {k : BitVec 3} {b : WriteBurst} {n : Nat} (h : n ∈ slotOrder k b) :
    ∃ p ∈ placedBeats b, slotOfAddr k p.addr = n := by
  simp only [slotOrder, List.mem_eraseDups, List.mem_map, List.mem_filter] at h
  obtain ⟨p, ⟨hp, -⟩, hn⟩ := h
  exact ⟨p, hp, hn⟩

/-- A slot with a share of the burst stands in the order. -/
theorem mem_slotOrder_of_share {k : BitVec 3} {b : WriteBurst} {n : Nat} (h : shareOf k n b ≠ []) : n ∈ slotOrder k b := by
  obtain ⟨p, hp⟩ := List.exists_mem_of_ne_nil _ h
  have memShare : ∀ q, q ∈ shareOf k n b ↔ q ∈ placedBeats b ∧ regionBase k ≤ q.addr ∧ slotOfAddr k q.addr = n := by
    intro q; simp [shareOf]
  have stands : ∀ q, q ∈ shareOf k n b → placesSlot k b q = true → n ∈ slotOrder k b := by
    intro q hq hs
    have hq' := (memShare q).1 hq
    simp only [slotOrder, List.mem_eraseDups, List.mem_map, List.mem_filter]
    exact ⟨q, ⟨hq'.1, hs⟩, hq'.2.2⟩
  by_cases hpost : isPost (shareOf k n b) = true
  · obtain ⟨q, hq, hw⟩ := List.any_eq_true.1 hpost
    have hq' := (memShare q).1 hq
    exact stands q hq (by simp [placesSlot, hq'.2.1, hw])
  · have hp' := (memShare p).1 hp
    exact stands p hp (by simp [placesSlot, hp'.2.1, hp'.2.2, hpost])

/-- A list with its repeats erased has none. -/
theorem eraseDups_nodup : ∀ l : List Nat, l.eraseDups.Nodup
  | [] => by simp
  | a :: l => by
    rw [List.eraseDups_cons, List.nodup_cons]
    exact ⟨by simp [List.mem_eraseDups], eraseDups_nodup _⟩
termination_by l => l.length
decreasing_by
  simp only [List.length_cons]
  exact Nat.lt_succ_of_le (List.length_filter_le _ _)

/-- Each slot stands in the order once. -/
theorem slotOrder_nodup (k : BitVec 3) (b : WriteBurst) : (slotOrder k b).Nodup := eraseDups_nodup _

/-- A fold whose steps all stand still but the one of `n`. -/
theorem foldl_lone {α β : Type} (f : β → α → β) (s : β) {n : α} (l : List α) (hl : l.Nodup)
    (h : ∀ m ∈ l, m ≠ n → ∀ t, f t m = t) (hn : n ∉ l → f s n = s) : l.foldl f s = f s n := by
  induction l generalizing s with
  | nil => exact (hn List.not_mem_nil).symm
  | cons m l ih =>
    obtain ⟨hm, htail⟩ := List.nodup_cons.1 hl
    by_cases hmn : m = n
    · subst hmn
      have still : ∀ t, l.foldl f t = t := by
        intro t
        have hx : ∀ x ∈ l, ∀ t, f t x = t := fun x hx => h x (by simp [hx]) fun e => hm (e ▸ hx)
        clear ih hl htail hn h hm
        induction l generalizing t with
        | nil => rfl
        | cons x l ih => rw [List.foldl_cons, hx x (by simp)]; exact ih t fun y hy => hx y (by simp [hy])
      rw [List.foldl_cons, still]
    · rw [List.foldl_cons, h m (by simp) hmn]
      exact ih s htail (fun x hx => h x (by simp [hx])) fun hx => hn (by simp [hx, Ne.symm hmn])

/-! ## The treatment of a burst -/

/-- A burst that is not decoded passes whole (R1, R2). -/
theorem writeStep_outside (d : Deciders) (b : WriteBurst) (s : State) (h : ¬ Decoded b.header s) :
    writeStep d b s = { s with traffic := passedTraffic b } := by
  unfold writeStep
  rw [if_pos (passesBy_of_not_decoded h), passWrite_eq]

/-- A slot that is neither staged nor bulk takes no effect (R3, R13). -/
theorem treatSlot_none (d : Deciders) (role : Role) (b : WriteBurst) {n : Nat} (t : State) (h1 : stagedOfNumber n = none)
    (h2 : bulkOfNumber n = none) : treatSlot d role b n t = t := by
  unfold treatSlot
  rw [h1, h2]

/-- A burst with an effect in the slot numbered `n` alone. -/
theorem writeStep_lone (d : Deciders) {n : Nat} {b : WriteBurst} {s : State} (h : Decoded b.header s) (hl : Lone n b s)
    (hn : shareOf s.pi.window n b = [] →
      treatSlot d (roleOf s.pi b.header) b n (passWrite b b.beats s) = passWrite b b.beats s) :
    writeStep d b s = treatSlot d (roleOf s.pi b.header) b n (passWrite b b.beats s) := by
  simp only [writeStep, passesBy_of_decoded h, Bool.false_eq_true, if_false]
  refine foldl_lone _ _ _ (slotOrder_nodup _ _) ?_ ?_
  · intro m hm hne t
    obtain ⟨p, hp, rfl⟩ := beat_of_mem_slotOrder hm
    rcases hl p hp with h1 | ⟨h1, h2⟩
    · exact absurd h1 hne
    · exact treatSlot_none d _ b t h1 h2
  · intro hm
    exact hn (by by_contra hs; exact hm (mem_slotOrder_of_share hs))

/-- A buffer put back as it is. -/
theorem setBuffer_self (slot : StagedSlot) (p : PathInterface) : setBuffer slot (bufferOf p slot) p = p := by
  simp [setBuffer, bufferOf]

/-- A burst with an effect in one staged slot other than the mailbox. -/
theorem writeStep_staged (d : Deciders) {slot : StagedSlot} {b : WriteBurst} {s : State} (hs : slot ≠ .mailbox)
    (h : Decoded b.header s) (hl : Lone (stagedNumber slot) b s) : writeStep d b s = stagedOn (d.staged slot) slot b s := by
  have ht : treatSlot d (roleOf s.pi b.header) b (stagedNumber slot) (passWrite b b.beats s) = stagedOn (d.staged slot) slot b s := by
    simp [treatSlot, hs]
  rw [writeStep_lone d h hl, ht]
  intro he
  rw [ht]
  unfold stagedOn stagedStep
  simp only [passWrite_pi, he]
  split
  · simp [isPost, mergeShare, setBuffer_self, passWrite_eq]
  · rfl

/-- A burst with an effect in the mailbox alone. -/
theorem writeStep_mailbox (d : Deciders) {b : WriteBurst} {s : State} (h : Decoded b.header s)
    (hl : Lone (stagedNumber .mailbox) b s) : writeStep d b s = mailboxOn d.judge b s := by
  have ht : treatSlot d (roleOf s.pi b.header) b (stagedNumber .mailbox) (passWrite b b.beats s) = mailboxOn d.judge b s := by
    simp [treatSlot]
  rw [writeStep_lone d h hl, ht]
  intro he
  rw [ht]
  unfold mailboxOn mailboxStep
  simp only [passWrite_pi, he]
  split
  · simp [isPost, mergeShare, setBuffer_self, passWrite_eq]
  · rfl

/-- A burst with an effect in one bulk slot. -/
theorem writeStep_bulk (d : Deciders) {slot : BulkSlot} {b : WriteBurst} {s : State} (h : Decoded b.header s)
    (hl : Lone (bulkNumber slot) b s) : writeStep d b s = bulkOn (d.bulk slot) slot b s := by
  have ht : treatSlot d (roleOf s.pi b.header) b (bulkNumber slot) (passWrite b b.beats s) = bulkOn (d.bulk slot) slot b s := by
    simp [treatSlot]
  rw [writeStep_lone d h hl, ht]
  intro he
  rw [ht]
  exact bulkStep_noClaim _ _ _ _ (.inr he)

/-- A burst with a post to a staged slot other than the mailbox, under any row. -/
theorem exec_post {c : Instr} {slot : StagedSlot} {b : WriteBurst} {s : State} (hc : writeTarget c = some b) (hs : slot ≠ .mailbox)
    (h : Posts slot b s) : exec c s = .next (stagedOn (ownersOf slot) slot b s) := by
  rw [exec_write s hc, writeStep_staged deciders hs h.1 h.2.2.1]; rfl

/-- A burst with a post to the mailbox, under any row. -/
theorem exec_mailbox {c : Instr} {b : WriteBurst} {s : State} (hc : writeTarget c = some b) (h : Posts .mailbox b s) :
    exec c s = .next (mailboxOn judgeCommand b s) := by
  rw [exec_write s hc, writeStep_mailbox deciders h.1 h.2.2.1]; rfl

/-- A burst with a claim on a bulk slot, under any row. -/
theorem exec_claim {c : Instr} {slot : BulkSlot} {b : WriteBurst} {s : State} (hc : writeTarget c = some b) (h : Claims slot b s) :
    exec c s = .next (bulkOn (bulkOwner slot) slot b s) := by
  rw [exec_write s hc, writeStep_bulk deciders h.1 h.2.2.1]; rfl

end Sys2Proof.Machine
end

