-- ==== Sys2Proof/Laws/Steps.lean ====
section
/-! SUPPORT. Everything a step can do, said once: a property that each part of a step keeps is kept by every step. -/

namespace Sys2Proof.Machine

/-- A property of states that each part of a step keeps: intake, each owner's decision, each answer, the timer and pin reset. -/
structure Kept (P : State → Prop) : Prop where
  traffic : ∀ (s : State) (t : Traffic), P s → P { s with traffic := t }
  queue : ∀ (s : State) (q : List Instr), P s → P (s.withPending q)
  buffer : ∀ (s : State) (slot : StagedSlot) (u : StagingBuffer), P s → P { s with pi := setBuffer slot u s.pi }
  post : ∀ (slot : Nat) (tag : BitVec 8) (o : PostOutcome) (s : State), P s → P (recordPost slot tag o s)
  rewrite : ∀ (reason : RewriteReason) (s : State), P s → P (recordRewrite reason s)
  owner : ∀ (slot : StagedSlot) (k : RecordKind) (own : Owner), ownersOf slot k = some own →
    ∀ (w : Line) (s : State), P s → P (own w s).2
  judge : ∀ (w : Line) (tag : BitVec 8) (s t : State), P s → judgeCommand w tag s = .ok t → P t
  bulk : ∀ (slot : BulkSlot) (w : Line) (s : State), P s → P (bulkOwner slot w s).2
  serve : ∀ (z : ServedSlot) (role : Role) (s : State), P s → P (serveTable z role s).2
  pop : ∀ (n : Nat) (s : State), P s → P { s with ru := { s.ru with fifo := s.ru.fifo.drop n } }
  expire : ∀ (states : List RevisitState) (s : State), P s → P (expireIn states s)
  tick : ∀ s : State, P s → P (tick s)
  reset : ∀ (wb : BitVec 3) (bypass : Bool) (s : State), P s → P (pinResetState wb bypass s)

variable {P : State → Prop}

theorem Kept.judgePost (h : Kept P) (slot : StagedSlot) (permitted : Bool) (u : StagingBuffer) (s : State) (hs : P s) :
    P (judgePost (ownersOf slot) permitted u s).2 := by
  unfold Machine.judgePost
  split
  · split
    · exact hs
    · split
      · exact hs
      · rename_i own ho
        split
        · exact h.owner slot _ own ho _ _ hs
        · exact hs
  · exact hs

theorem Kept.stagedStep (h : Kept P) (slot : StagedSlot) (role : Role) (b : WriteBurst) (s : State) (hs : P s) :
    P (stagedStep (ownersOf slot) role slot b s) := by
  unfold Machine.stagedStep
  split
  · simp only
    split
    · exact h.post _ _ _ _ (h.judgePost slot _ _ _ (h.buffer _ slot _ hs))
    · exact h.buffer _ slot _ hs
  · exact hs

theorem Kept.rewriteCommand (h : Kept P) (b : WriteBurst) (tag : BitVec 8) (reason : RewriteReason) (o : PostOutcome) (s : State)
    (hs : P s) : P (rewriteCommand b tag reason o s) :=
  h.post _ _ _ _ (h.rewrite _ _ (h.traffic s _ hs))

theorem Kept.mailboxStep (h : Kept P) (role : Role) (b : WriteBurst) (s : State) (hs : P s) :
    P (mailboxStep judgeCommand role b s) := by
  unfold Machine.mailboxStep
  split
  · simp only
    split
    · unfold judgeMailbox
      have hb := h.buffer _ .mailbox (clearMarks (mergeShare (mayWrite s.pi.part .mailbox role)
        (shareOf s.pi.window (stagedNumber .mailbox) b) (bufferOf s.pi .mailbox))) hs
      split
      · split
        · split
          · split
            · rename_i hj; exact h.post _ _ _ _ (h.judge _ _ _ _ hb hj)
            · exact h.rewriteCommand _ _ _ _ _ hb
          · exact h.rewriteCommand _ _ _ _ _ hb
        · exact h.rewriteCommand _ _ _ _ _ hb
      · exact h.rewriteCommand _ _ _ _ _ hb
    · exact h.buffer _ .mailbox _ hs
  · exact hs

theorem Kept.bulkStep (h : Kept P) (slot : BulkSlot) (role : Role) (b : WriteBurst) (s : State) (hs : P s) :
    P (bulkStep (bulkOwner slot) role slot b s) := by
  unfold Machine.bulkStep
  simp only
  split
  · refine h.post _ _ _ _ ?_
    unfold judgeBulk
    split
    · split
      · exact h.bulk slot _ _ hs
      · exact hs
    · exact hs
  · exact hs

theorem Kept.treatSlot (h : Kept P) (role : Role) (b : WriteBurst) (n : Nat) (s : State) (hs : P s) :
    P (treatSlot deciders role b n s) := by
  unfold Machine.treatSlot
  split
  · split
    · exact h.mailboxStep role b s hs
    · exact h.stagedStep _ role b s hs
  · split
    · exact h.bulkStep _ role b s hs
    · exact hs

theorem Kept.writeStep (h : Kept P) (b : WriteBurst) (s : State) (hs : P s) : P (writeStep deciders b s) := by
  have hp : P (passWrite b b.beats s) := h.traffic s _ hs
  unfold Machine.writeStep
  simp only
  split
  · exact hp
  · generalize slotOrder s.pi.window b = l
    generalize passWrite b b.beats s = t at hp
    induction l generalizing t with
    | nil => exact hp
    | cons n l ih => exact ih _ (h.treatSlot _ b n t hp)

theorem Kept.readStep (h : Kept P) (first count : Nat) (r : ReadBurst) (s : State) (hs : P s) :
    P (readStep serveTable first count r s) := by
  unfold Machine.readStep
  split
  · exact h.traffic s _ hs
  · exact h.traffic s _ hs
  · unfold popWindow
    refine h.traffic _ _ ?_
    by_cases hr : roleOf s.pi r.header = .supervisor
    · simp only [hr, if_true]; exact h.pop _ s hs
    · simp only [hr, if_false]; exact hs
  · exact h.traffic _ _ (h.serve _ _ s hs)

/-- A property that every part of a command keeps is kept by the command. -/
theorem Kept.exec (h : Kept P) (c : Instr) (s t : State) (hs : P s) (ht : exec c s = .next t) : P t := by
  have write : ∀ b, writeTarget c = some b → P t := by
    intro b hc
    rw [exec_write s hc, Host.Outcome.next.injEq] at ht
    subst ht
    exact h.writeStep b s hs
  have read : ∀ r, readTarget c = some r → P t := by
    intro r hc
    obtain ⟨first, count, he⟩ := exec_read s hc
    rw [he, Host.Outcome.next.injEq] at ht
    subst ht
    exact h.readStep first count r s hs
  cases c
  case pinReset wb bypass =>
    simp only [Machine.exec, execPinReset, Host.Outcome.next.injEq] at ht
    subst ht
    exact h.reset wb bypass s hs
  case arrivalStepExpiry =>
    simp only [Machine.exec, execArrivalStepExpiry, Host.Outcome.next.injEq] at ht
    subst ht
    exact h.expire _ _ (h.traffic s _ hs)
  case recallExpiry =>
    simp only [Machine.exec, execRecallExpiry, Host.Outcome.next.injEq] at ht
    subst ht
    exact h.expire _ _ (h.traffic s _ hs)
  case focusStepExpiry =>
    simp only [Machine.exec, execFocusStepExpiry, Host.Outcome.next.injEq] at ht
    subst ht
    exact h.expire _ _ (h.traffic s _ hs)
  case imageStepExpiry =>
    simp only [Machine.exec, execImageStepExpiry, Host.Outcome.next.injEq] at ht
    subst ht
    exact h.expire _ _ (h.traffic s _ hs)
  all_goals first | exact write _ rfl | exact read _ rfl

/-- A property that every part of a step keeps is kept by the step. -/
theorem Kept.step (h : Kept P) (s t : State) (hs : P s) (ht : step s = .next t) : P t := by
  unfold Machine.step at ht
  split at ht
  · simp only [Host.Outcome.next.injEq] at ht
    subst ht
    exact h.tick s hs
  · exact h.exec _ _ t (h.queue s _ hs) ht

end Sys2Proof.Machine
end

