-- ==== Sys2Proof/Laws/Store.lean ====
section
/-! SUPPORT. The laws of the sparse stores: reading after writing, and the canonical form kept by every operation. -/

namespace Sys2Proof.Machine

variable {α : Type}

/-- The indices of a store, in order. -/
abbrev Sparse.keys (m : Sparse α) : List Nat := m.map Prod.fst

/-- The indices strictly rise. -/
abbrev Sparse.Rising (m : Sparse α) : Prop := (Sparse.keys m).Pairwise (· < ·)

@[simp] theorem Sparse.lookup_nil (i : Nat) : Sparse.lookup ([] : Sparse α) i = none := rfl

theorem Sparse.lookup_cons (j : Nat) (a : α) (m : Sparse α) (i : Nat) :
    Sparse.lookup ((j, a) :: m) i = if j = i then some a else Sparse.lookup m i := rfl

/-- Canonical form: rising indices below the bound. -/
theorem Sparse.wf_iff (n : Nat) (m : Sparse α) : Sparse.wf n m = true ↔ Sparse.Rising m ∧ ∀ p ∈ m, p.1 < n := by
  simp [Sparse.wf, Sparse.Rising, List.pairwise_map]

@[simp] theorem Sparse.wf_nil (n : Nat) : Sparse.wf n ([] : Sparse α) = true := by simp [Sparse.wf]

theorem Sparse.rising_tail {p : Nat × α} {m : Sparse α} (h : Sparse.Rising (p :: m)) : Sparse.Rising m := by
  simp only [Sparse.Rising, List.map_cons, List.pairwise_cons] at h
  exact h.2

theorem Sparse.rising_head {p : Nat × α} {m : Sparse α} (h : Sparse.Rising (p :: m)) : ∀ q ∈ m, p.1 < q.1 := by
  simp only [Sparse.Rising, List.map_cons, List.pairwise_cons, List.mem_map] at h
  exact fun q hq => h.1 q.1 ⟨q, hq, rfl⟩

/-- An index read after it is written. -/
theorem Sparse.lookup_insert_same (m : Sparse α) (i : Nat) (a : α) : Sparse.lookup (Sparse.insert m i a) i = some a := by
  induction m with
  | nil => simp [Sparse.insert, Sparse.lookup]
  | cons p m ih =>
    obtain ⟨j, b⟩ := p
    simp only [Sparse.insert]
    split
    · simp [Sparse.lookup]
    · split
      · simp [Sparse.lookup]
      · rename_i h1 h2
        simp [Sparse.lookup, Ne.symm h2, ih]

/-- Every other index reads as before a write. -/
theorem Sparse.lookup_insert_other (m : Sparse α) {i j : Nat} (a : α) (h : j ≠ i) :
    Sparse.lookup (Sparse.insert m i a) j = Sparse.lookup m j := by
  induction m with
  | nil => simp [Sparse.insert, Sparse.lookup, Ne.symm h]
  | cons p m ih =>
    obtain ⟨k, b⟩ := p
    simp only [Sparse.insert]
    split
    · simp [Sparse.lookup, Ne.symm h]
    · split
      · rename_i h1 h2
        subst h2
        simp [Sparse.lookup, Ne.symm h]
      · simp [Sparse.lookup, ih]

theorem Sparse.lookup_insert (m : Sparse α) (i j : Nat) (a : α) :
    Sparse.lookup (Sparse.insert m i a) j = if j = i then some a else Sparse.lookup m j := by
  split
  · rename_i h; rw [h]; exact Sparse.lookup_insert_same m i a
  · rename_i h; exact Sparse.lookup_insert_other m a h

/-- An entry of the store after a write is the one written or one that stood before. -/
theorem Sparse.mem_insert {m : Sparse α} {i : Nat} {a : α} {p : Nat × α} (h : p ∈ Sparse.insert m i a) :
    p = (i, a) ∨ p ∈ m := by
  induction m with
  | nil => simpa [Sparse.insert] using h
  | cons q m ih =>
    obtain ⟨k, b⟩ := q
    simp only [Sparse.insert] at h
    split at h
    · simpa using h
    · split at h
      · simp only [List.mem_cons] at h ⊢
        tauto
      · simp only [List.mem_cons] at h ⊢
        rcases h with h | h
        · tauto
        · rcases ih h with h | h <;> tauto

theorem Sparse.mem_of_lookup {m : Sparse α} {i : Nat} {a : α} (h : Sparse.lookup m i = some a) : (i, a) ∈ m := by
  induction m with
  | nil => simp at h
  | cons q m ih =>
    obtain ⟨k, b⟩ := q
    rw [Sparse.lookup_cons] at h
    split at h
    · rename_i hk; subst hk; simp only [Option.some.injEq] at h; subst h; simp
    · exact List.mem_cons_of_mem _ (ih h)

/-- In canonical form, what is listed is what is read. -/
theorem Sparse.lookup_iff_mem {m : Sparse α} (hr : Sparse.Rising m) (i : Nat) (a : α) :
    Sparse.lookup m i = some a ↔ (i, a) ∈ m := by
  refine ⟨Sparse.mem_of_lookup, fun h => ?_⟩
  induction m with
  | nil => simp at h
  | cons q m ih =>
    obtain ⟨k, b⟩ := q
    rw [Sparse.lookup_cons]
    rcases List.mem_cons.1 h with h | h
    · obtain ⟨rfl, rfl⟩ := Prod.mk.inj h; simp
    · have := Sparse.rising_head hr _ h
      simp only at this
      rw [if_neg (by omega)]
      exact ih (Sparse.rising_tail hr) h

/-- A write keeps the indices rising. -/
theorem Sparse.rising_insert {m : Sparse α} (hr : Sparse.Rising m) (i : Nat) (a : α) : Sparse.Rising (Sparse.insert m i a) := by
  induction m with
  | nil => simp [Sparse.insert, Sparse.Rising]
  | cons q m ih =>
    obtain ⟨k, b⟩ := q
    have htail := Sparse.rising_tail hr
    have hhead := Sparse.rising_head hr
    simp only [Sparse.insert]
    split
    · rename_i hik
      simp only [Sparse.Rising, List.map_cons, List.pairwise_cons, List.mem_cons, List.mem_map] at hr ⊢
      refine ⟨?_, hr⟩
      rintro j (rfl | ⟨q, hq, rfl⟩)
      · exact hik
      · exact lt_trans hik (hhead q hq)
    · split
      · rename_i h1 h2
        subst h2
        simpa [Sparse.Rising] using hr
      · rename_i h1 h2
        have hi := ih htail
        simp only [Sparse.Rising, List.map_cons, List.pairwise_cons] at hi ⊢
        refine ⟨?_, hi⟩
        intro j hj
        obtain ⟨p, hp, rfl⟩ := List.mem_map.1 hj
        rcases Sparse.mem_insert hp with rfl | hp
        · simp only; omega
        · exact hhead p hp

/-- A write below the bound keeps the canonical form. -/
theorem Sparse.wf_insert {m : Sparse α} {n : Nat} (hm : Sparse.wf n m = true) {i : Nat} (hi : i < n) (a : α) :
    Sparse.wf n (Sparse.insert m i a) = true := by
  rw [Sparse.wf_iff] at hm ⊢
  refine ⟨Sparse.rising_insert hm.1 i a, fun p hp => ?_⟩
  rcases Sparse.mem_insert hp with rfl | hp
  · exact hi
  · exact hm.2 p hp

/-- Clearing a mark keeps the canonical form. -/
theorem Sparse.wf_erase {m : Sparse α} {n : Nat} (hm : Sparse.wf n m = true) (i : Nat) :
    Sparse.wf n (Sparse.erase m i) = true := by
  rw [Sparse.wf_iff] at hm ⊢
  refine ⟨?_, fun p hp => hm.2 p (List.mem_filter.1 hp).1⟩
  exact List.Pairwise.sublist (List.Sublist.map _ List.filter_sublist) hm.1

/-- Changing every entry keeps the canonical form. -/
theorem Sparse.wf_mapValues {m : Sparse α} {n : Nat} (f : α → α) (hm : Sparse.wf n m = true) :
    Sparse.wf n (Sparse.mapValues f m) = true := by
  have hk : (Sparse.mapValues f m).map Prod.fst = m.map Prod.fst := by simp [Sparse.mapValues, Function.comp_def]
  simpa [Sparse.wf, hk] using hm

@[simp] theorem Sparse.keys_mapValues (m : Sparse α) (f : α → α) :
    (Sparse.mapValues f m).map Prod.fst = m.map Prod.fst := by simp [Sparse.mapValues, Function.comp_def]

/-- Reading after every entry is changed. -/
theorem Sparse.lookup_mapValues (m : Sparse α) (f : α → α) (i : Nat) :
    Sparse.lookup (Sparse.mapValues f m) i = (Sparse.lookup m i).map f := by
  induction m with
  | nil => rfl
  | cons q m ih =>
    obtain ⟨k, b⟩ := q
    have : Sparse.mapValues f ((k, b) :: m) = (k, f b) :: Sparse.mapValues f m := rfl
    rw [this, Sparse.lookup_cons, Sparse.lookup_cons, ih]
    split <;> rfl

/-- Reading after a mark is cleared. -/
theorem Sparse.lookup_erase (m : Sparse α) (i j : Nat) :
    Sparse.lookup (Sparse.erase m i) j = if j = i then none else Sparse.lookup m j := by
  induction m with
  | nil => simp [Sparse.erase]
  | cons q m ih =>
    obtain ⟨k, b⟩ := q
    simp only [Sparse.erase] at ih
    simp only [Sparse.erase, List.filter_cons, Sparse.lookup_cons]
    by_cases hk : k = i
    · subst hk
      simp only [ne_eq, not_true_eq_false, decide_false, Bool.false_eq_true, if_false]
      rw [ih]
      split
      · rfl
      · rename_i h; rw [if_neg (Ne.symm h)]
    · simp only [ne_eq, hk, not_false_eq_true, decide_true, if_true, Sparse.lookup_cons]
      rw [ih]
      by_cases hj : k = j
      · subst hj; simp [hk]
      · simp [hj]

/-- What `modEntry` leaves in the table. -/
theorem modEntry_lookup (tag : Nat) (f : RevisitEntry → RevisitEntry) (r : RevisitScheduler) (i : Nat) :
    Sparse.lookup (modEntry tag f r).table i =
      if i = tag then (Sparse.lookup r.table tag).map f else Sparse.lookup r.table i := by
  unfold modEntry
  cases h : Sparse.lookup r.table tag with
  | none =>
    simp only [Option.map_none]
    split
    · rename_i hi; rw [hi, h]
    · rfl
  | some e => simp only [Sparse.lookup_insert, Option.map_some]

end Sys2Proof.Machine
end

