-- ==== Sys2Proof/WellFormed.lean ====
section
/-! DEFINITION. Which commands can reach the part: AXI4-legal bursts that fall where their row says. -/

namespace Sys2Proof

open Sys2Proof.Machine

/-! ## AXI4 legality of a burst (R2, R3) -/

/-- The beat count a burst type admits: 1..16 for a fixed burst, 1..256 for an incrementing one, 2, 4, 8 or 16 for a wrapping one. -/
def lengthOk (k : BurstType) (n : Nat) : Bool :=
  match k with
  | .fixed => 1 ≤ n && n ≤ 16
  | .incr => 1 ≤ n && n ≤ 256
  | .wrap => n == 2 || n == 4 || n == 8 || n == 16

/-- A wrapping burst's start address is aligned to its beat size (R3). -/
def startOk (h : BurstHeader) : Bool := h.kind != .wrap || h.addr.toNat % beatBytes h == 0

/-- An incrementing burst does not cross a 4 KiB boundary (R2). -/
def pageOk (h : BurstHeader) (n : Nat) : Bool :=
  h.kind != .incr || h.addr.toNat / 4096 == (h.addr.toNat / beatBytes h * beatBytes h + n * beatBytes h - 1) / 4096

/-- A legal burst of `n` beats. -/
def burstOk (h : BurstHeader) (n : Nat) : Bool := lengthOk h.kind n && startOk h && pageOk h n

/-- Every beat's strobes lie in the byte lanes the beat uses. -/
def strobesOk (b : WriteBurst) : Bool :=
  (b.beats.mapIdx fun i d => d.strobes &&& ~~~(beatLanes b.header (beatAddr b.header b.beats.length i)) == 0).all id

/-! ## Where a burst falls (R1, R3) -/

/-- An address lies in the tool region of some window index (R1). -/
def inSomeRegion (a : Nat) : Bool :=
  1 ≤ a / Config.windowStep && a / Config.windowStep ≤ 8 && a % Config.windowStep < Config.regionBytes

/-- The slot number an address has in its window's region. -/
def slotIn (a : Nat) : Nat := a % Config.windowStep / 64

/-- A legal write burst, wherever it lies (R2). -/
def legalWrite (b : WriteBurst) : Bool := burstOk b.header b.beats.length && strobesOk b

/-- A write that posts the staged slot numbered `n` of some window's region: some beat writes its word 7 (R8). -/
def postsNumber (n : Nat) (b : WriteBurst) : Bool :=
  inSomeRegion b.header.addr.toNat && (placedBeats b).any fun p => slotIn p.addr == n && writesWord p 7

/-- A legal write that posts a staged slot. -/
def postOk (slot : StagedSlot) (b : WriteBurst) : Bool := legalWrite b && postsNumber (stagedNumber slot) b

/-- The staged slots of some window's region in which a write places a beat. -/
def stagedSlots (b : WriteBurst) : List StagedSlot :=
  if inSomeRegion b.header.addr.toNat then (placedBeats b).filterMap fun p => stagedOfNumber (slotIn p.addr) else []

/-- A write that posts no staged slot (R8). -/
def postsNothing (b : WriteBurst) : Bool := (stagedSlots b).all fun slot => !postsNumber (stagedNumber slot) b

/-- A legal write that touches a bulk slot satisfying a test (R12). -/
def touchesBulk (test : BulkSlot → Bool) (b : WriteBurst) : Bool :=
  legalWrite b && inSomeRegion b.header.addr.toNat && (placedBeats b).any fun p => (bulkOfNumber (slotIn p.addr)).any test

/-- The slot numbers of the beats of a read burst. -/
def readSlots (r : ReadBurst) : List Nat := (readAddrs r).map slotIn

/-- A legal read burst, with as many beats in memory's answer as it has itself. -/
def readOk (r : ReadBurst) : Bool := burstOk r.header r.length && r.answer.length == r.length

/-- A read of one served slot: every beat in it (R13). -/
def servedReadOk (z : ServedSlot) (r : ReadBurst) : Bool :=
  readOk r && inSomeRegion r.header.addr.toNat && (readSlots r).all fun n => servedOfNumber n == some z

/-- A read that no other row names: one across the edge of a served slot (R15), one of the status slot, or one of memory
(log 15). -/
def otherReadOk (r : ReadBurst) : Bool :=
  readOk r && !(servedReadOk .target r || servedReadOk .plan r || servedReadOk .event r || servedReadOk .reportWindow r)

/-- A legal write that posts nothing and touches no bulk slot, ordinary memory's and served slots' included (R3, R13; log 15): it
touches the staged slot it names, and no staged slot when it names none. -/
def otherWriteOk (slot : Option StagedSlot) (b : WriteBurst) : Bool :=
  legalWrite b && postsNothing b && !touchesBulk (fun _ => true) b
    && match slot with
      | some t => (stagedSlots b).contains t
      | none => (stagedSlots b).isEmpty

/-- A command that its row allows: what an expiry or a pin reset carries is always allowed. -/
def Instr.wellFormed : Instr → Bool
  | .pinReset _ _ => true
  | .stagedWrite slot b => otherWriteOk slot b
  | .setup b => postOk .setup b
  | .clear b | .lotClose b | .idOverride b | .relocate b | .alignment b | .endWafer b | .urgent b | .tableLoad b
  | .ackFlags b => postOk .control b
  | .lotHeader b => postOk .lotHeader b
  | .waferEntry n b => postOk (.waferEntry n) b
  | .focusRecipe b => postOk .focusRecipe b
  | .samplingRecipe b => postOk .samplingRecipe b
  | .geometryRecipe b => postOk .geometryRecipe b
  | .pickCarrier b | .pickAligner b | .pickStage b | .placeAligner b | .placeStage b | .placeCarrier b =>
    postOk .mailbox b
  | .completion b => postOk .completion b
  | .slotMap b => postOk .slotMap b
  | .idRead b => postOk .idRead b
  | .defectEntry i b => touchesBulk (fun t => t == .defect i) b
  | .bulkPartial slot b => touchesBulk (fun t => t == slot) b
  | .tableStreamLine b => touchesBulk (fun t => t == .tableStream) b
  | .targetRead r => servedReadOk .target r
  | .arrival b => postOk .arrival b
  | .arrivalStepExpiry | .recallExpiry | .focusStepExpiry | .imageStepExpiry => true
  | .planRead r => servedReadOk .plan r
  | .sweep b => postOk .sweep b
  | .columnCapability b => postOk .capability b
  | .result b => postOk .result b
  | .eventRead r => servedReadOk .event r
  | .reportWindowRead r first count => servedReadOk .reportWindow r && first + count ≤ r.length
  | .straddlingRead r => otherReadOk r
  | .unknownKindPost slot b => postOk slot b

end Sys2Proof
end

