-- ==== Sys2Proof/Tests/Slice0.lean ====
section
/-! SUPPORT. Small tests against the worked examples of the spec, the refusals of WellFormed, and for each statement with
hypotheses a state and operands that meet them. -/

namespace Sys2Proof.Tests

open Sys2Proof Sys2Proof.Machine

/-! ## Helpers -/

/-- An 8-byte incrementing burst at a word of a slot of window 0. Agents: 0 SUPERVISOR, 1 HANDLER, 2 STAGE, 3 COLUMN, 4 IMAGER
(12.1), the rest OTHER. -/
def header (agent : BitVec 4) (slot word : Nat) : BurstHeader :=
  { agent := agent, idLow := 0, heldRole := none, addr := BitVec.ofNat 40 (268435456 + 64 * slot + 8 * word), size := 3
    kind := .incr }

def write (agent : BitVec 4) (slot word : Nat) (data : List Word) : WriteBurst :=
  { header := header agent slot word, beats := data.map fun w => { data := w, strobes := 255 }, answer := .okay }

/-- A full record, with its kind and the tag 9. -/
def record (agent : BitVec 4) (slot kind : Nat) (data : List Word) : WriteBurst :=
  write agent slot 0 (((List.range 7).map fun i => data.getD i 0) ++ [put 0 8 kind ||| put 8 8 9])

def control (kind : Nat) (w : Word) : WriteBurst := record 0 1 kind [w]

def command (verb place slot : Nat) : WriteBurst :=
  record 0 192 0x40 [0, 0, 0, 0, 0, 0, put 0 8 verb ||| put 8 8 place ||| put 16 8 slot]

def completed (tag outcome : Nat) : WriteBurst := record 1 193 0x41 [put 0 8 tag ||| put 8 8 outcome ||| put 16 16 77]

def line (agent : BitVec 4) (slot : Nat) (w : Word) : WriteBurst := write agent slot 0 (List.replicate 8 w)

/-- Memory's answer to a read it gets. -/
def memoryBeats (n : Nat) : List ReadBeat := List.replicate n { data := 77, lanes := 255, response := .exokay }

def reading (h : BurstHeader) (n : Nat) : ReadBurst := { header := h, length := n, answer := memoryBeats n }

def read (agent : BitVec 4) (slot : Nat) : ReadBurst := reading (header agent slot 0) 8

def after (s : State) : Host.Outcome State Fault Refusal → State
  | .next t => t
  | .fault _ | .refused _ => s

/-- What a read was answered, as numbers. -/
def answered (s : State) : List Nat := match s.traffic.upRead with
  | some u => u.beats.map fun x => x.data.toNat
  | none => []

def ready : State := { State.reset with
  pi := { State.reset.pi with
    part := .ready
    setup :=
      { roleMap := #v[.supervisor, .handler, .stage, .column, .imager, .other, .other, .other, .other, .other, .other, .other,
          .other, .other, .other, .other]
        arrivalLimit := 1500, focusLimit := 2000, imageLimit := 0, maxAttempts := 2, threshold := 64, enable := 4095 } } }

def inLot (l : LotState) (s : State) : State := { s with wt := { s.wt with lot := l } }

def blankSlot : SlotRecord := SlotRecord.reset

/-- The wafer of a slot at a location, in its place when the location is one. -/
def waferAt (c : CarrierSlot) (r : SlotRecord) (s : State) : State := { s with
  wt := { withSlot c r s.wt with
    robot := if r.location = .onRobot then some c else s.wt.robot
    aligner := if r.location = .onAligner then some c else s.wt.aligner
    chamber := if r.location = .inChamber then some c else s.wt.chamber } }

def present (l : Location) : SlotRecord := { blankSlot with condition := .present, location := l, visited := l == .inChamber }

/-- The focus recipe of 12.1. -/
def focus : FocusRecipe :=
  { nominal := 1200, floor := 900, ceiling := 1500, contrastFloor := 200, wideN := 9, wideDz := 20, narrowN := 7, narrowDz := 8
    weightShift := 2, driftLimit := 3, carry := false, maxSweeps := 3, residualHigh := 120, residualLow := -120, calX := 0
    calY := 0 }

def noNibbles : Nibbles := { cls := 0, size := 0, region := 0, pass := 0 }

def noFilter : SamplingFilter := { enable := false, pattern := noNibbles, mask := noNibbles }

/-- The sampling recipe of 12.1: a cap of 6, and PREDICT then NARROW. -/
def sampling : SamplingRecipe :=
  { filter1 := noFilter, filter2 := noFilter, logic := .or, cap := 6, cadenceLength := 2
    cadence := #v[2, 1, 0, 0, 0, 0, 0, 0, 0, 0, 0, 0, 0, 0, 0, 0] }

/-- The geometry recipe of 6.7 with the modes of 12.1. -/
def geometry : GeometryRecipe :=
  { pitchX := 26000, pitchY := 33000, originX := -13000, originY := -16500, radius := 147000, tolerance := 100, modes := 5
    offsets := #v[3, 0, -5, 0, 0, 0] }

def wafer : WaferRecipe := { focus := focus, sampling := sampling, geometry := geometry }

def recipes (s : State) : State :=
  { s with pi := { s.pi with focusRecipe := some focus, samplingRecipe := some sampling, geometryRecipe := some geometry } }

/-- The wafer of slot 4 in the chamber with its session in a state. -/
def session (q : SessionState) : State :=
  let s := waferAt 3 (present .inChamber) (inLot .opened (recipes ready))
  { s with
    wt := { s.wt with ends := Vector.ofFn fun c => if c.val = 0 then 120 else if c.val < 3 then 250 else 400 }
    rs := { s.rs with session := { s.rs.session with
      state := q, chamberSlot := some 3, recipe := some wafer, offsetX := 37, offsetY := -22
      tallies := { WaferTallies.zero with selected := 6 } } }
    fe := { s.fe with capability := 37 } }

def entry (q : RevisitState) : RevisitEntry :=
  { kind := .regular, defect := some 250, state := q, attempts := 0, sweeps := 1, flags := EntryFlags.clear
    sequence := some 1, target := some (51378, -29516) }

/-- The defect of 6.7. -/
def defect : DefectEntry := { column := 2, row := -1, inX := 12345, inY := 20000, attributes := noNibbles, source := 900 }

/-- The context of sequence 1 of 12.4, its sweep under way. -/
def context : FocusContext :=
  { tag := 0, kind := .regular, zone := (8, 4), sequence := some 1, step := some .wide, prediction := some (19200, .nominal)
    plan := some { z0 := 1120, dz := 20, n := 9, centre := 1200 }, sweepNumber := some 1, image := some (.seHigh, 19263) }

/-- A session in ACTIVE or ENDING with one site entry, at tag 0. -/
def site (q : SessionState) (e : RevisitEntry) : State :=
  let s := session q
  { s with
    rs := { s.rs with table := [(0, e)], defects := [(250, defect), (256, defect)], timer := .running 1500 1499 false }
    fe := { s.fe with context := some context } }

def withEntries (t : Sparse RevisitEntry) (queue lane : List Nat) (s : State) : State :=
  { s with rs := { s.rs with table := t, queue := queue, lane := lane } }

/-- The sweep record of sequence 1 with its scores (12.4). -/
def sweep (n : Nat) (scores : List Nat) : WriteBurst :=
  let word := fun i => (List.range 4).foldl (fun w j => w ||| put (16 * j) 16 (scores.getD (4 * i + j) 0)) 0
  record 4 259 0x51 [put 0 16 1 ||| put 16 8 1 ||| put 24 8 n, word 0, word 1, word 2]

def scores : List Nat := [300, 480, 700, 865, 900, 871, 690, 420, 250]

/-! ## WellFormed: one ill-formed term for each check -/

/-- A wrapping burst has 2, 4, 8 or 16 beats. -/
theorem test_wellFormed_length : Instr.wellFormed (.stagedWrite (some .setup)
    { header := { header 0 0 0 with kind := .wrap }, beats := List.replicate 3 { data := 0, strobes := 255 }
      answer := .okay }) = false := by decide

/-- A wrapping burst starts at a multiple of its beat size. -/
theorem test_wellFormed_start : Instr.wellFormed (.stagedWrite (some .setup)
    { header := { header 0 0 0 with kind := .wrap, addr := 268435460 }
      beats := List.replicate 2 { data := 0, strobes := 240 }, answer := .okay }) = false := by decide

/-- An incrementing burst stays in its 4 KiB page. -/
theorem test_wellFormed_page : Instr.wellFormed (.bulkPartial (.defect 63) (line 0 1087 0)) = true
    ∧ Instr.wellFormed (.bulkPartial (.defect 63) (write 0 1087 1 (List.replicate 8 0))) = false := by decide

/-- A strobe outside the lanes of its beat. -/
theorem test_wellFormed_strobes : Instr.wellFormed (.stagedWrite (some .setup)
    { header := { header 0 0 0 with size := 2 }, beats := [{ data := 0, strobes := 16 }], answer := .okay }) = false := by decide

/-- A setup outside every tool region; the same burst is a STAGED_WRITE that only passes. -/
theorem test_wellFormed_region :
    let b := { record 0 0 1 [] with header := { header 0 0 0 with addr := 0 } }
    Instr.wellFormed (.setup b) = false ∧ Instr.wellFormed (.stagedWrite none b) = true := by decide

/-- A post of another slot than the row's. -/
theorem test_wellFormed_slot : Instr.wellFormed (.setup (record 0 1 1 [])) = false
    ∧ Instr.wellFormed (.setup (record 0 0 1 [])) = true ∧ Instr.wellFormed (.waferEntry 23 (record 0 89 0x21 [])) = false
    ∧ Instr.wellFormed (.waferEntry 24 (record 0 89 0x21 [])) = true := by decide

/-- A post is no STAGED_WRITE, a write without word 7 no post, and a claim on a bulk slot neither. -/
theorem test_wellFormed_post : Instr.wellFormed (.stagedWrite (some .setup) (record 0 0 1 [])) = false
    ∧ Instr.wellFormed (.setup (write 0 0 0 [0])) = false ∧ Instr.wellFormed (.unknownKindPost .control (line 0 2 0)) = false
    ∧ Instr.wellFormed (.stagedWrite none (write 0 320 0 [0])) = false
    ∧ Instr.wellFormed (.defectEntry 0 (line 0 320 0)) = false := by decide

/-- A STAGED_WRITE touches the staged slot it names, and none when it names none. -/
theorem test_wellFormed_named : Instr.wellFormed (.stagedWrite (some .setup) (write 0 1 0 [0])) = false
    ∧ Instr.wellFormed (.stagedWrite (some .control) (write 0 1 0 [0])) = true
    ∧ Instr.wellFormed (.stagedWrite none (write 0 1 0 [0])) = false
    ∧ Instr.wellFormed (.stagedWrite none (line 0 256 0)) = true := by decide

/-- A read of another served slot, one whose answer from memory has the wrong length, and a straddling read that straddles
nothing. -/
theorem test_wellFormed_reads : Instr.wellFormed (.targetRead (read 2 257)) = false
    ∧ Instr.wellFormed (.targetRead (read 2 256)) = true
    ∧ Instr.wellFormed (.targetRead { read 2 256 with answer := [] }) = false
    ∧ Instr.wellFormed (.straddlingRead (read 2 256)) = false
    ∧ Instr.wellFormed (.straddlingRead (reading (header 2 256 4) 8)) = true := by decide

/-- A window read forms no beat past its burst. -/
theorem test_wellFormed_formed : Instr.wellFormed (.reportWindowRead (read 0 8192) 1 8) = false
    ∧ Instr.wellFormed (.reportWindowRead (read 0 8192) 1 7) = true := by decide

/-! ## The tool region: worked examples -/

/-- R12: eight beats from word 4 of a defect slot make two partial claims. -/
theorem test_bulk_straddle :
    let b := write 0 1274 4 (List.replicate 8 0)
    slotOrder 0 b = [1274, 1275]
    ∧ (after ready (exec (.bulkPartial (.defect 250) b) ready)).pi.lastPost = { slot := 1275, tag := 0, outcome := some .partialLine }
    ∧ (after ready (exec (.bulkPartial (.defect 250) b) ready)).pi.refusals = 2 := by decide

/-- R8: posts are treated in the order of their post words, and a burst over two slots can post both. -/
theorem test_two_posts :
    let b := write 0 0 0 (List.replicate 16 0)
    slotOrder 0 b = [0, 1] ∧ (after ready (exec (.unknownKindPost .setup b) ready)).pi.refusals = 2
    ∧ (after ready (exec (.unknownKindPost .setup b) ready)).pi.lastPost.slot = 1 := by decide

/-- R8: a burst is a post exactly when it writes word 7, and its row is the row of the kind it leaves there. -/
theorem test_rows_of_posts : writeRow ready (write 0 0 0 [5]) = .stagedWrite (some .setup) (write 0 0 0 [5])
    ∧ writeRow ready (command 1 3 0) = .pickStage (command 1 3 0)
    ∧ writeRow ready (record 0 1 0x40 []) = .unknownKindPost .control (record 0 1 0x40 [])
    ∧ writeRow ready (line 0 320 0) = .tableStreamLine (line 0 320 0) := by decide

/-- R3, R13: writes to ordinary memory of the region and to a served slot pass, and memory's response comes back with the burst's
ID (R17). -/
theorem test_stagedWrite_passes :
    let b := fun slot => { line 3 slot 5 with answer := .slverr }
    (after ready (exec (.stagedWrite none (b 10)) ready)) = { ready with traffic := passedTraffic (b 10) }
    ∧ (after ready (exec (.stagedWrite none (b 256)) ready)).traffic.downWrite.map (·.beats) = some (b 256).beats
    ∧ (after ready (exec (.stagedWrite none (b 256)) ready)).traffic.upWrite.map (fun u => (u.header.agent, u.response)) =
      some (3, .slverr) := by decide

/-- R2: a read of memory goes downstream, and memory's beats come back as they are. -/
theorem test_read_passes :
    let t := after ready (exec (.straddlingRead (read 0 10)) ready)
    t.traffic.upRead.map (·.beats) = some (memoryBeats 8) ∧ t.traffic.downRead.map (·.length) = some 8 := by decide

/-- R3: a wrapping burst returns to the start of its block, an incrementing burst of 4-byte beats uses alternate lanes. -/
theorem test_placing :
    (placedBeats { header := { header 0 0 6 with kind := .wrap }, beats := List.replicate 4 { data := 0, strobes := 255 }
                   answer := .okay }).map (·.addr - 268435456) = [48, 56, 32, 40]
    ∧ (placedBeats { header := { header 0 0 0 with size := 2 }, beats := List.replicate 3 { data := 0, strobes := 255 }
                     answer := .okay }).map (fun p => (p.addr - 268435456, p.strobes)) = [(0, 15), (4, 240), (8, 15)] := by decide

/-- R6: a foreign write passes to memory and merges nothing. -/
theorem test_stagedWrite_foreign :
    (after ready (exec (.stagedWrite (some .setup) (write 1 0 0 [5])) ready)).pi.staging = ready.pi.staging
    ∧ (after ready (exec (.stagedWrite (some .setup) (write 0 0 0 [5])) ready)).pi.staging[0].words[0] = 5 := by decide

/-- R12: a line with one strobe missing is PARTIAL. -/
theorem test_bulkPartial : (after ready (exec (.bulkPartial (.defect 250) (write 0 1274 0 [1])) ready)).pi.lastPost =
    { slot := 1274, tag := 0, outcome := some .partialLine } := by decide

/-- R9: the handler's kind in the control slot is unknown there. -/
theorem test_unknownKindPost :
    (after ready (exec (.unknownKindPost .control (record 0 1 0x40 [])) ready)).pi.lastPost =
      { slot := 1, tag := 9, outcome := some .unknownKind } := by decide

/-- R21: a pin reset samples the straps and forgets the setup. -/
theorem test_pinReset : (after ready (exec (.pinReset 5 true) ready)).pi = PathInterface.reset 5 true := by decide

/-- R21: a burst whose address is accepted, and a window read half done, are abandoned; a command whose burst has not begun waits. -/
theorem test_pinReset_abandons :
    let held := { write 0 0 0 [5] with header := { header 0 0 0 with heldRole := some .supervisor } }
    (after ready (exec (.pinReset 0 false)
      (ready.withPending [.stagedWrite (some .setup) held, .reportWindowRead (read 0 8192) 3 5, .eventRead (read 0 3)]))).pending =
        [.eventRead (read 0 3)] := by decide

/-! ## Setup and recipes: the lot of chapter 12 -/

def setupRecord (attempts threshold : Nat) : WriteBurst :=
  record 0 0 0x01 [put 4 4 2, put 48 8 attempts, put 0 16 threshold ||| put 16 12 2]

/-- After pin reset any agent is SUPERVISOR for the setup only (R6); the setup opens READY with its event pending. -/
theorem test_setup : (after ready (exec (.setup (setupRecord 2 64)) State.reset)).pi.part = .ready
    ∧ (after ready (exec (.setup (setupRecord 2 64)) State.reset)).pi.setup.roleMap[1] = .handler
    ∧ (after ready (exec (.setup (setupRecord 4 64)) State.reset)).pi.lastPost.outcome = some .outOfRange := by decide

def focusRecord (ceiling : Int) : WriteBurst :=
  record 0 128 0x30
    [put 0 16 1200 ||| put 16 16 900 ||| putS 32 16 ceiling ||| put 48 16 200,
     put 0 8 9 ||| put 8 8 20 ||| put 16 8 7 ||| put 24 8 8 ||| put 32 4 2 ||| put 36 4 3 ||| put 44 4 3,
     putS 0 16 120 ||| putS 16 16 (-120), 0]

/-- The focus recipe of 12.1; a span wider than the focus range is refused (R58). -/
theorem test_focusRecipe : (after ready (exec (.focusRecipe (focusRecord 1500)) ready)).pi.focusRecipe = some focus
    ∧ (after ready (exec (.focusRecipe (focusRecord 1059)) ready)).pi.lastPost.outcome = some .outOfRange := by decide

def samplingRecord (length : Nat) : WriteBurst := record 0 129 0x31 [put 16 16 6 ||| put 32 8 length, 0, 0x12]

theorem test_samplingRecipe : (after ready (exec (.samplingRecipe (samplingRecord 2)) ready)).pi.samplingRecipe = some sampling
    ∧ (after ready (exec (.samplingRecipe (samplingRecord 3)) ready)).pi.samplingRecipe = none := by decide

def geometryRecord (radius : Nat) : WriteBurst :=
  record 0 130 0x32
    [put 0 32 26000 ||| put 32 32 33000, putS 0 32 (-13000) ||| putS 32 32 (-16500),
     put 0 32 radius ||| put 32 16 100 ||| put 48 6 5, putS 0 16 3 ||| putS 32 16 (-5), 0]

theorem test_geometryRecipe :
    (after ready (exec (.geometryRecipe (geometryRecord 147000)) ready)).pi.geometryRecipe = some geometry
    ∧ (after ready (exec (.geometryRecipe (geometryRecord 99999)) ready)).pi.lastPost.outcome = some .outOfRange := by decide

/-- R131: SE_HIGH, TILT and OVERVIEW. -/
theorem test_columnCapability :
    (after ready (exec (.columnCapability (record 3 260 0x52 [37])) ready)).fe.capability = 37 := by decide

/-- 12.1: TABLE_LOAD(584, 20); 6.2: entry 7 of line 1 goes to index 591; the third line writes four entries. -/
theorem test_tableLoad : (after ready (exec (.tableLoad (control 0x17 (put 0 16 584 ||| put 16 16 20))) ready)).rs.cursor = 584
    ∧ (after ready (exec (.tableLoad (control 0x17 (put 0 16 1004 ||| put 16 16 21))) ready)).pi.lastPost.outcome =
      some .outOfRange := by decide

def streamLine : WriteBurst := line 0 320 (putS 0 16 (-4) ||| putS 16 16 6 ||| put 32 1 1)

theorem test_tableStreamLine :
    let s := { ready with rs := { ready.rs with cursor := 584, remaining := 20 } }
    let t := after s (exec (.tableStreamLine streamLine) s)
    Sparse.lookup t.rs.corrections 591 = some (-4, 6) ∧ t.rs.cursor = 592
    ∧ (let u := after s (exec (.tableStreamLine streamLine) { s with rs := { s.rs with cursor := 600, remaining := 4 } })
      u.rs.corrections.map Prod.fst = [600, 601, 602, 603] ∧ u.rs.remaining = 0) := by decide

/-! ## The lot and its wafers -/

def lotHeaderRecord (check : Nat) : WriteBurst :=
  record 0 64 0x20
    [put 0 32 50217 ||| put 32 12 1023 ||| put 44 4 check ||| put 48 16 400,
     put 0 16 120 ||| put 16 16 250 ||| put 32 16 250 ||| put 48 16 400,
     0x0190019001900190, 0x0190019001900190, 0x0190019001900190, 0x0190019001900190, 0x0190019001900190]

/-- The header of 12.2. -/
theorem test_lotHeader :
    let t := after ready (exec (.lotHeader (lotHeaderRecord 1)) ready)
    t.wt.lot = .loading ∧ t.wt.idCheck = true ∧ t.wt.ends[0] = 120 ∧ t.wt.ends[2] = 250 ∧ t.wt.ends[3] = 400
    ∧ t.wt.ends[24] = 400 ∧ t.wt.slots[2].rangeFault = false := by decide

/-- R27: a falling value and one past the store are marked, and the ranges stay apart. -/
theorem test_ends :
    let raw := fun n => if n = 0 then 100 else if n = 1 then 80 else 5000
    effectiveEnd raw 1 = 100 ∧ effectiveEnd raw 2 = 100 ∧ effectiveEnd raw 3 = 4096
    ∧ rangeFaultOf raw 1 = true ∧ rangeFaultOf raw 2 = true ∧ rangeFaultOf raw 0 = false := by decide

def waferRecord (n : Nat) : WriteBurst := record 0 68 0x21 [put 0 8 n, 0x4847464544434241, 0x4C4B4A49]

theorem test_waferEntry :
    let t := after ready (exec (.waferEntry 3 (waferRecord 4)) (inLot .loading ready))
    t.wt.slots[3].expectedId = some #v[0x41, 0x42, 0x43, 0x44, 0x45, 0x46, 0x47, 0x48, 0x49, 0x4A, 0x4B, 0x4C] := by decide

/-- 12.2: slots 2 and 4 PRESENT, the rest EMPTY. -/
theorem test_slotMap :
    let t := after ready (exec (.slotMap (record 1 194 0x42 [0x1111111111112121, 0x111111111])) (inLot .loading ready))
    t.wt.lot = .opened ∧ t.wt.tallies.present = 2 ∧ (slotOf t.wt 3).location = .inCarrier
    ∧ (slotOf t.wt 0).location = .absent := by decide

def idRecord (status : Nat) (last : Word) : WriteBurst :=
  record 1 195 0x43 [0x4847464544434241, last ||| put 32 8 status]

def onAligner (expected : Option WaferId) : State :=
  let s := waferAt 3 { present .onAligner with expectedId := expected } (inLot .opened ready)
  { s with wt := { s.wt with idMask := 1023 } }

def idText : WaferId := #v[0x41, 0x42, 0x43, 0x44, 0x45, 0x46, 0x47, 0x48, 0x49, 0x4A, 0x4B, 0x4C]

/-- R32: characters 10 and 11 are outside the mask of 12.2, character 9 is inside. -/
theorem test_idRead :
    let s := onAligner (some idText)
    (slotOf (after s (exec (.idRead (idRecord 1 0x00004A49)) s)).wt 3).idState = .idOk
    ∧ (slotOf (after s (exec (.idRead (idRecord 1 0x00000049)) s)).wt 3).idState = .idMismatch
    ∧ (after s (exec (.idRead (idRecord 1 0x00000049)) s)).wt.tallies.mismatches = 1 := by decide

theorem test_idOverride :
    let s := waferAt 3 { present .onAligner with idState := .idUnread } (inLot .opened ready)
    (slotOf (after s (exec (.idOverride (control 0x12 4)) s)).wt 3).idState = .idOverridden := by decide

/-- R36: a lot at rest closes at once, with the lot report of 10.2 in the FIFO and LOT_DONE pending. -/
theorem test_lotClose :
    let s := waferAt 1 (present .inCarrier) (inLot .opened ready)
    let t := after s (exec (.lotClose (control 0x11 0)) s)
    t.wt.lot = .noLot ∧ t.wt.tallies.notVisited = 1 ∧ t.ru.fifo.length = 4
    ∧ t.ru.pendingEvents.getLsbD EventKind.lotDone.bit = true := by decide

/-- R22, R164: a clear keeps the recipes and the setup and ends the lot. -/
theorem test_clear :
    let t := after ready (exec (.clear (control 0x10 0)) (session .active))
    t.wt.lot = .noLot ∧ t.pi.geometryRecipe = some geometry ∧ t.ru.attn = true ∧ t.rs.session.state = .none := by decide

/-! ## Movement -/

def carrier : State := waferAt 3 (present .inCarrier) (inLot .opened (recipes ready))
def onRobot (aligned : Bool) : State :=
  waferAt 3 { present .onRobot with aligned := aligned, idState := .idOk } (inLot .opened (recipes ready))

/-- R41: the pick of slot 4 passes, a second slot's is NOT_HERE with its wafer absent. -/
theorem test_pickCarrier :
    (after ready (exec (.pickCarrier (command 1 1 4)) carrier)).wt.channel =
      .outstanding { tag := 9, verb := .pick, place := .carrier, carrier := 4, wafer := 3 }
    ∧ (after ready (exec (.pickCarrier (command 1 1 5)) carrier)).ru.lastRewrite = some .notHere := by decide

theorem test_placeAligner : (after ready (exec (.placeAligner (command 2 2 0)) (onRobot false))).pi.lastPost.outcome = some .taken
    ∧ (after ready (exec (.placeAligner (command 2 2 0)) carrier)).ru.lastRewrite = some .robotEmpty := by decide

theorem test_pickAligner :
    let s := waferAt 3 (present .onAligner) (inLot .closing ready)
    (after s (exec (.pickAligner (command 1 2 0)) s)).pi.lastPost.outcome = some .taken
    ∧ (after s (exec (.pickAligner (command 1 2 0)) carrier)).ru.lastRewrite = some .notHere := by decide

/-- R44: a wafer not aligned is rewritten before the recipes are looked at. -/
theorem test_placeStage : (after ready (exec (.placeStage (command 2 3 0)) (onRobot true))).pi.lastPost.outcome = some .taken
    ∧ (after ready (exec (.placeStage (command 2 3 0)) (onRobot false))).ru.lastRewrite = some .notAligned := by decide

/-- R45: a PICK STAGE with an entry at its site is rewritten SITE_BUSY; one that passes puts the session in EXITING. -/
theorem test_pickStage :
    (after ready (exec (.pickStage (command 1 3 0)) (session .active))).rs.session.state = .exiting
    ∧ (after ready (exec (.pickStage (command 1 3 0)) (site .active (entry .focused)))).ru.lastRewrite = some .siteBusy := by decide

theorem test_placeCarrier :
    (after ready (exec (.placeCarrier (command 2 1 4)) (onRobot false))).pi.lastPost.outcome = some .taken
    ∧ (after ready (exec (.placeCarrier (command 2 1 5)) (onRobot false))).ru.lastRewrite = some .wrongSlot := by decide

/-- A command under way for the wafer of slot 4, tag 13. -/
def underWay (v : Verb) (p : Place) (s : State) : State :=
  { s with wt := { s.wt with channel := .outstanding { tag := 13, verb := v, place := p, carrier := 0, wafer := 3 } } }

/-- 12.3: completion 13 DONE is the chamber entry, over an empty range here. -/
theorem test_completion :
    let s := underWay .place .stage (onRobot true)
    let t := after s (exec (.completion (completed 13 1)) s)
    (slotOf t.wt 3).location = .inChamber ∧ (slotOf t.wt 3).visited = true ∧ t.rs.session.state = .aligning
    ∧ (after s (exec (.completion (completed 12 1)) s)).pi.lastPost.outcome = some .stale := by decide

/-- R50, R158: a fault halts the channel, loses the wafer and stores a handling note of two words. -/
theorem test_completion_fault :
    let s := underWay .place .stage (onRobot true)
    let t := after s (exec (.completion (completed 13 2)) s)
    t.wt.channel = .halted 3 .place .stage ∧ (slotOf t.wt 3).location = .unknown
    ∧ t.ru.fifo.map BitVec.toNat = [0x0302040203, 0x0D004D] := by decide

def faulted (v : Verb) (p : Place) (visited : Bool) (s : State) : State :=
  let t := waferAt 3 { present .unknown with visited := visited } s
  { t with wt := { t.wt with robot := none, chamber := none, channel := .halted 3 v p } }

def relocateTo (l : Nat) : WriteBurst := control 0x13 (put 0 8 4 ||| put 8 8 l)

/-- R53: the wafer of a faulted PLACE STAGE found in the chamber opens its session. -/
theorem test_relocate :
    let s := faulted .place .stage false (inLot .opened (recipes ready))
    (after s (exec (.relocate (relocateTo 4)) s)).rs.session.state = .aligning
    ∧ (after s (exec (.relocate (relocateTo 5)) s)).pi.lastPost.outcome = some .outOfRange := by decide

/-! ## Sessions and revisits -/

/-- 12.3: ALIGNMENT(+37, −22). -/
theorem test_alignment :
    let t := after ready (exec (.alignment (control 0x14 (putS 0 32 37 ||| putS 32 32 (-22)))) (session .aligning))
    t.rs.session.state = .active ∧ t.rs.session.offsetX = 37 ∧ t.rs.session.offsetY = -22 ∧ t.rs.session.aligned = true := by
  decide

/-- 12.5: tag 5 QUEUED becomes NOT_REVIEWED, tag 4 runs on. -/
theorem test_endWafer :
    let s := withEntries [(4, entry .dispatched), (5, { entry .queued with defect := some 255 })] [5] [] (session .active)
    let t := after s (exec (.endWafer (control 0x15 0)) s)
    t.rs.table.map (fun p => p.2.state) = [.dispatched, .notReviewed] ∧ t.rs.session.tallies.notReviewed = 1
    ∧ t.rs.session.state = .ending ∧ t.rs.queue = [] := by decide

/-- 12.4: URGENT(256) makes tag 7 here, the lowest open one after the six selected, and recalls the travelling entry. -/
theorem test_urgent :
    let t := after ready (exec (.urgent (control 0x16 256)) (site .active (entry .dispatched)))
    t.rs.lane = [1] ∧ t.rs.session.tallies.urgentAdded = 1
    ∧ (Sparse.lookup t.rs.table 0).map (·.state) = some .recalling := by decide

theorem test_ackFlags :
    let s := { ready with ru := { ready.ru with reportLost := true } }
    (after s (exec (.ackFlags (control 0x18 1)) s)).ru.reportLost = false
    ∧ (after s (exec (.ackFlags (control 0x18 2)) s)).pi.lastPost.outcome = some .outOfRange := by decide

theorem test_defectEntry :
    let t := after ready (exec (.defectEntry 250 (line 0 1274 (putS 0 8 2 ||| putS 8 8 (-1) ||| put 16 16 12345 ||| put 32 16 20000)))
      (inLot .loading ready))
    (Sparse.lookup t.rs.defects 250).map (fun d => (d.column, d.row, d.inX, d.inY)) = some (2, -1, 12345, 20000) := by decide

/-- The dispatch of 6.7: target (51378, −29516), zone (8, 4), sequence 1. -/
def waiting : State :=
  let s := withEntries [(0, { entry .queued with sequence := none, target := none })] [0] [] (session .active)
  { s with rs := { s.rs with defects := [(250, defect)], corrections := [(591, (-4, 6))] } }

theorem test_targetRead :
    let t := after ready (exec (.targetRead (read 2 256)) waiting)
    (siteEntry t.rs).map (fun p => p.2.target) = some (some (51378, -29516))
    ∧ t.fe.context.map (·.zone) = some (8, 4) ∧ (siteEntry t.rs).map (fun p => p.2.sequence) = some (some 1) := by decide

/-- R106: RECALL puts the entry back at the queue's head with RESTARTED set. -/
theorem test_targetRead_recall :
    let t := after ready (exec (.targetRead (read 2 256)) (site .active (entry .recalling)))
    t.rs.queue = [0] ∧ t.rs.session.tallies.restarts = 1 ∧ (answered t).headD 0 % 256 = 5
    ∧ (Sparse.lookup t.rs.table 0).map (·.flags.restarted) = some true := by decide

def arrivalRecord (x : Int) (status : Nat) : WriteBurst :=
  record 2 257 0x50 [put 0 16 1 ||| put 16 8 status, putS 0 32 x ||| putS 32 32 (-29516)]

/-- R104: a difference equal to the tolerance sets no flag. -/
theorem test_arrival :
    let s := site .active (entry .dispatched)
    ((siteEntry (after s (exec (.arrival (arrivalRecord 51478 1)) s)).rs).map (fun p => (p.2.state, p.2.flags.positionOff))) =
      some (.arrived, false)
    ∧ ((siteEntry (after s (exec (.arrival (arrivalRecord 51479 1)) s)).rs).map (fun p => p.2.flags.positionOff)) = some true := by
  decide

/-- R109: the first of two attempts returns the entry, the second fails it. -/
theorem test_arrivalStepExpiry :
    (after ready (exec .arrivalStepExpiry (site .active (entry .dispatched)))).rs.queue = [0]
    ∧ (after ready (exec .arrivalStepExpiry (site .active { entry .dispatched with attempts := 1 }))).rs.session.tallies.failedBy =
      { arrivalTimeout := 1, focusTimeout := 0, imageTimeout := 0, offWafer := 0, noMode := 0, imageFault := 0 } := by decide

theorem test_recallExpiry :
    let t := after ready (exec .recallExpiry (site .active (entry .recalling)))
    t.rs.queue = [0] ∧ t.rs.session.tallies.restarts = 1 ∧ t.traffic.upRead = none := by decide

theorem test_focusStepExpiry :
    (after ready (exec .focusStepExpiry (site .active (entry .focusing)))).rs.session.tallies.failedBy.focusTimeout = 1 := by decide

theorem test_imageStepExpiry :
    (after ready (exec .imageStepExpiry (site .active (entry .focused)))).rs.session.tallies.failedBy.imageTimeout = 1 := by decide

/-- A step's own expiry: with the limit reached at the next tick, the tick is the expiry (R108). -/
theorem test_tick_expiry : (tick (site .active (entry .focused))).rs.session.tallies.failedBy.imageTimeout = 1 := by decide

/-! ## Focus -/

/-- 12.4, sequence 1: an EMPTY zone forces WIDE, P is NOMINAL and the plan starts at 1120. -/
theorem test_planRead :
    let s := site .active { entry .arrived with sweeps := 0 }
    let t := after s (exec (.planRead (read 3 258)) { s with fe := { s.fe with
      context := some { context with step := none, prediction := none, plan := none, sweepNumber := none, image := none } } })
    t.fe.context.bind (·.plan) = some { z0 := 1120, dz := 20, n := 9, centre := 1200 }
    ∧ t.fe.context.bind (·.prediction) = some (19200, .nominal) ∧ t.rs.session.cadenceIndex = 1 := by decide

/-- 12.4, sequence 1: the scores peak at k = 4, z* = 19215, and the image is taken at 19263. -/
theorem test_sweep :
    let t := after ready (exec (.sweep (sweep 9 scores)) (site .active (entry .focusing)))
    Sparse.lookup t.fe.zones 100 = some { trust := .tracking, value := 19215, count := 1, measured := true }
    ∧ t.fe.context.bind (·.image) = some (.seHigh, 19263) ∧ t.fe.stats.runCount = 1 := by decide

/-- R129: an EDGE whose new plan is the old one is pinned; here the edge moves the plan, and the sweep is made again. -/
theorem test_sweep_edge :
    let t := after ready (exec (.sweep (sweep 9 [900, 800, 700, 600, 500, 400, 300, 250, 210])) (site .active (entry .focusing)))
    t.fe.context.bind (·.plan) = some { z0 := 1040, dz := 20, n := 9, centre := 1120 }
    ∧ t.fe.context.bind (·.sweepNumber) = some 2 := by decide

def resultRecord (o c : Nat) : WriteBurst := record 4 261 0x53 [put 0 16 1 ||| put 16 8 o ||| put 24 8 c, 0]

theorem test_result :
    let t := after ready (exec (.result (resultRecord 1 12)) (site .active (entry .focused)))
    t.rs.session.histogram[12] = 1 ∧ t.rs.session.tallies.classified = 1 ∧ t.fe.context = none
    ∧ (after ready (exec (.result (resultRecord 1 64)) (site .active (entry .focused)))).pi.lastPost.outcome = some .outOfRange := by
  decide

/-- R118: halves away from zero; (19215 + 19240) / 2 rounds to 19228 and (19210 + 19220) / 2 is 19215 (12.4, 12.5). -/
theorem test_rounding : roundDiv 38455 2 = 19228 ∧ roundDiv 38430 2 = 19215 ∧ roundDiv (-3) 2 = -2 ∧ roundDiv 19215 16 = 1201 := by
  decide

/-- R125: a plan pushed up to the floor and one pulled under the ceiling. -/
theorem test_plan : (makePlan focus 1200 9 20).z0 = 1120 ∧ (makePlan focus 905 9 20).z0 = 900 ∧ (makePlan focus 1495 9 20).z0 = 1340 := by
  decide

/-- R75: the four logics, with filter 1 passing and filter 2 failing. -/
theorem test_verdict :
    let a : Nibbles := { noNibbles with cls := 3 }
    let m := fun l => ({ sampling with
      logic := l, filter1 := { enable := true, pattern := a, mask := { noNibbles with cls := 15 } }
      filter2 := { enable := true, pattern := noNibbles, mask := { noNibbles with cls := 1 } } } : SamplingRecipe)
    verdict (m .or) a = true ∧ verdict (m .and) a = false ∧ verdict (m .nor) a = false ∧ verdict (m .nand) a = true := by decide

/-! ## Reports -/

/-- R161: a SUPERVISOR read clears the set and drops ATTN, another role's does not. -/
theorem test_eventRead :
    let s := { ready with ru := { ready.ru with pendingEvents := 9, attn := true } }
    (after s (exec (.eventRead (read 0 3)) s)).ru.attn = false ∧ (after s (exec (.eventRead (read 1 3)) s)).ru.attn = true
    ∧ (answered (after s (exec (.eventRead (read 1 3)) s))).headD 0 = 9 := by decide

theorem test_reportWindowRead :
    let s := { ready with ru := { ready.ru with fifo := [7, 8, 9] } }
    let t := after s (exec (.reportWindowRead (reading (header 0 8192 0) 2) 0 2) s)
    answered t = [7, 8] ∧ t.ru.fifo = [9] := by decide

/-- R15: a read across the target slot's edge is answered SLVERR with zero data on every beat. -/
theorem test_straddlingRead :
    let t := after ready (exec (.straddlingRead (reading (header 2 256 4) 8)) waiting)
    t.traffic.upRead.map (fun u => u.beats.map (·.response)) = some (List.replicate 8 .slverr)
    ∧ t.rs.queue = waiting.rs.queue := by decide

/-! ## Witnesses: states and operands that meet the hypotheses of the statements, clause by clause -/

theorem wit_StepRunsFrontCommand : step (ready.withPending [.imageStepExpiry, .focusStepExpiry]) =
    exec .imageStepExpiry (ready.withPending [.focusStepExpiry]) := rfl

/-- A timer just started, no site entry, and a running timer with the site entry in each row's state. -/
theorem wit_TimerExpiresAfterItsLimit :
    (let s := { ready with rs := { ready.rs with timer := .running 1 0 true } }
     s.pending = [] ∧ 0 < 1 ∧ s.rs.timer = .running 1 0 true ∧ ∀ p ∈ s.rs.table, isSite p.2.state = false)
    ∧ ∀ q ∈ [RevisitState.dispatched, .recalling, .arrived, .focusing, .focused],
      (site .active (entry q)).rs.timer ≠ .stopped ∧ siteEntry (site .active (entry q)).rs = some (0, entry q)
      ∧ (entry q).state = q := by decide

theorem wit_PinResetValues :
    inProgress (.setup { write 0 0 0 [5] with header := { header 0 0 0 with heldRole := some .other } }) = true
    ∧ inProgress (.reportWindowRead (read 0 8192) 1 7) = true ∧ inProgress (.reportWindowRead (read 0 8192) 0 8) = false := by
  decide

/-- The address under the region, the one past it, and a bypassed part. -/
theorem wit_TrafficOutsideRegionPasses :
    let h : BurstHeader := { header 0 0 0 with addr := 268435455 }
    let h' : BurstHeader := { header 0 0 0 with addr := BitVec.ofNat 40 (268435456 + Config.regionBytes) }
    let bypassed := { State.reset with pi := PathInterface.reset 0 true }
    ¬ Decoded h ready ∧ ¬ Decoded h' ready ∧ ¬ Decoded (header 0 0 0) bypassed ∧ Decoded (header 0 0 0) ready
    ∧ writeTarget (.setup ⟨h, [], .okay⟩) = some ⟨h, [], .okay⟩
    ∧ writeTarget (.tableStreamLine ⟨h', [], .decerr⟩) = some ⟨h', [], .decerr⟩
    ∧ readTarget (.targetRead (reading h 1)) = some (reading h 1) := by decide

/-- A line in a served slot, one in ordinary memory, a post of the control slot before setup, and a read of the event slot then. -/
theorem wit_InactiveSlotsPassTraffic :
    (∀ slot ∈ [256, 10], writeTarget (.stagedWrite none (line 0 slot 0)) = some (line 0 slot 0) ∧ Decoded (line 0 slot 0).header ready
      ∧ ∀ p ∈ placedBeats (line 0 slot 0), stagedOfNumber (slotOfAddr ready.pi.window p.addr) = none
        ∧ bulkOfNumber (slotOfAddr ready.pi.window p.addr) = none)
    ∧ (let b := control 0x10 0
      writeTarget (.clear b) = some b ∧ Decoded b.header State.reset ∧ State.reset.pi.part = .unconfigured
      ∧ ∀ p ∈ placedBeats b, slotOfAddr State.reset.pi.window p.addr ≠ 0)
    ∧ (readTarget (.eventRead (read 0 3)) = some (read 0 3) ∧ Decoded (read 0 3).header State.reset
      ∧ ∀ a ∈ readAddrs (read 0 3), ∀ z ∈ [ServedSlot.status, .event, .target, .plan, .reportWindow],
        servedOfNumber (slotOfAddr State.reset.pi.window a) = some z → State.reset.pi.part = .unconfigured ∧ z ≠ .status)
    ∧ (readTarget (.straddlingRead (read 0 10)) = some (read 0 10) ∧ Decoded (read 0 10).header ready
      ∧ ∀ a ∈ readAddrs (read 0 10), servedOfNumber (slotOfAddr ready.pi.window a) = none) := by decide

theorem wit_ShareWithoutPostMerges :
    (let b := write 0 0 6 [5]
     writeTarget (.stagedWrite (some .setup) b) = some b ∧ Decoded b.header State.reset ∧ Active .setup State.reset ∧ Lone 0 b State.reset
      ∧ isPost (stagedShare .setup b State.reset) = false ∧ MayWrite .setup b State.reset)
    ∧ (let b := write 4 1 6 [5]
      writeTarget (.stagedWrite (some .control) b) = some b ∧ Decoded b.header ready ∧ Active .control ready ∧ Lone 1 b ready
      ∧ isPost (stagedShare .control b ready) = false ∧ ¬ MayWrite .control b ready) := by decide

theorem wit_PostChecksInOrder :
    (Posts .control (record 5 1 0x10 []) ready ∧ ¬ MayWrite .control (record 5 1 0x10 []) ready)
    ∧ (Posts .control (record 0 1 0x19 []) ready ∧ MayWrite .control (record 0 1 0x19 []) ready
      ∧ ∀ k ∈ acceptedKinds .control, postKind (recordWords .control (record 0 1 0x19 []) ready)[7] ≠ some k)
    ∧ (let b := write 0 1 7 [0x14]
      Posts .control b ready ∧ MayWrite .control b ready ∧ RecordKind.alignment ∈ acceptedKinds .control
      ∧ postKind (recordWords .control b ready)[7] = some .alignment
      ∧ ∃ w ∈ usedWords .alignment, (mergedBuffer .control b ready).marks[w] = false) := by decide

theorem after_unknownKindPost (slot : StagedSlot) (b : WriteBurst) (s : State) :
    exec (.unknownKindPost slot b) s = .next (after s (exec (.unknownKindPost slot b) s)) := rfl

/-- A burst that covers the table stream slot and begins the next one, one whose posts are out of the order of its addresses, and one
cut at the edge of two posted slots. -/
theorem wit_BurstsTreatedSlotBySlot :
    (writeTarget (.bulkPartial .tableStream (line 0 320 0)) = writeTarget (.tableStreamLine (line 0 320 0)) ∧ Decoded (line 0 320 0).header ready)
    ∧ (let b : WriteBurst :=
        { header := { header 0 0 6 with kind := .wrap }, answer := .okay
          beats := List.replicate 16 { data := 0, strobes := 255 } }
      (placedBeats b).map (fun p => slotOfAddr 0 p.addr) = [0, 0] ++ List.replicate 8 1 ++ List.replicate 6 0
      ∧ shareOf 0 0 b ≠ [] ∧ shareOf 0 1 b ≠ []
      ∧ (placedBeats b).findIdx (fun p => decide (slotOfAddr 0 p.addr = 0) && writesWord p 7)
        < (placedBeats b).findIdx (fun p => decide (slotOfAddr 0 p.addr = 1) && writesWord p 7))
    ∧ (let h := header 0 0 0
      let d : WriteData := { data := 0, strobes := 255 }
      let x := List.replicate 8 d
      let edge := h.addr.toNat / beatBytes h * beatBytes h + x.length * beatBytes h
      let b : WriteBurst := ⟨h, x, .okay⟩
      let rest : WriteBurst := ⟨{ h with addr := BitVec.ofNat 40 edge, heldRole := some (roleOf ready.pi h) }, x, .okay⟩
      let t := after ready (exec (.unknownKindPost .setup b) ready)
      let u := after t (exec (.unknownKindPost .control rest) t)
      h.kind = .incr ∧ edge % 64 = 0 ∧ h.addr.toNat / 4096 = (edge + x.length * beatBytes h - 1) / 4096
      ∧ exec (.unknownKindPost .setup b) ready = .next t ∧ t.traffic.downWrite = some ⟨h, x⟩
      ∧ exec (.unknownKindPost .control rest) t = .next u ∧ u.traffic.downWrite = some ⟨rest.header, x⟩
      ∧ u.pi.refusals = 2) := by
  (repeat' apply And.intro) <;> first | decide | exact after_unknownKindPost _ _ _

theorem wit_MailboxChecksOfTheInterface :
    (Posts .mailbox (record 1 192 0x40 []) ready ∧ ¬ MayWrite .mailbox (record 1 192 0x40 []) ready)
    ∧ (Posts .mailbox (record 0 192 0x41 []) ready ∧ MayWrite .mailbox (record 0 192 0x41 []) ready
      ∧ postKind (recordWords .mailbox (record 0 192 0x41 []) ready)[7] ≠ some .handlerCommand)
    ∧ (let b := write 0 192 7 [0x40]
      Posts .mailbox b ready ∧ MayWrite .mailbox b ready ∧ postKind (recordWords .mailbox b ready)[7] = some .handlerCommand
      ∧ (mergedBuffer .mailbox b ready).marks[6] = false)
    ∧ (let b := write 0 192 6 [0, 0x40]
      (placedBeats b).map (fun p => decide (slotOfAddr 0 p.addr = 192) && writesWord p 7) = [false, true]
      ∧ b.beats.length = 2 ∧ (placedBeats b).length = 2 ∧ (rewriteBeats 0 9 .malformed b).length = 2) := by decide

theorem wit_BulkClaimsRefused :
    (Claims (.defect 0) (line 1 1024 0) ready ∧ roleOf ready.pi (line 1 1024 0).header ≠ .supervisor)
    ∧ (Claims (.defect 4095) (write 0 5119 1 (List.replicate 7 0)) ready
      ∧ roleOf ready.pi (write 0 5119 1 []).header = .supervisor
      ∧ fullLine (write 0 5119 1 []).header (bulkShare (.defect 4095) (write 0 5119 1 (List.replicate 7 0)) ready) = false)
    ∧ fullLine (header 0 1024 0) (bulkShare (.defect 0) (line 0 1024 0) ready) = true
    ∧ (let b : WriteBurst := { line 0 320 0 with beats := [{ data := 0, strobes := 0 }] }
      Claims .tableStream b ready ∧ fullLine b.header (bulkShare .tableStream b ready) = false) := by decide

/-- Attempts 1 and 3 and threshold 511 are inside, 0, 4 and 512 outside. -/
theorem wit_SetupTakenOrRefused :
    (Offers .setup .setup (setupRecord 3 511) ready ∧ ready.pi.part = .ready ∧ (inLot .loading ready).wt.lot ≠ .noLot
      ∧ Offers .setup .setup (setupRecord 3 511) (inLot .loading ready))
    ∧ (let w := recordWords .setup (setupRecord 3 512) ready
      Offers .setup .setup (setupRecord 3 512) ready ∧ ¬ (ready.pi.part = .ready ∧ ready.wt.lot ≠ .noLot) ∧ 511 < fld w[2] 0 16)
    ∧ (let w := recordWords .setup (setupRecord 0 511) ready
      Offers .setup .setup (setupRecord 0 511) ready ∧ fld w[1] 48 8 < 1)
    ∧ (let w := recordWords .setup (setupRecord 3 511) State.reset
      Offers .setup .setup (setupRecord 3 511) State.reset ∧ ¬ (State.reset.pi.part = .ready ∧ State.reset.wt.lot ≠ .noLot)
      ∧ (∀ a : Fin 16, fld w[0] (4 * a.val) 4 ≤ 5) ∧ 1 ≤ fld w[1] 48 8 ∧ fld w[1] 48 8 ≤ 3 ∧ 1 ≤ fld w[2] 0 16
      ∧ fld w[2] 0 16 ≤ 511) := by
  (repeat' apply And.intro) <;> decide

theorem wit_ClearIsTheToolClear : Offers .control .clear (control 0x10 0) ready
    ∧ Offers .control .clear (control 0x10 0) (site .ending (entry .focusing)) := by decide

/-- The target slot's last word and the word after it. -/
theorem wit_StraddlingReadsRefused :
    let r := reading (header 5 256 7) 2
    readTarget (.straddlingRead r) = some r ∧ Decoded r.header ready ∧ ready.pi.part = .ready
    ∧ (readAddrs r).map (fun a => servedOfNumber (slotOfAddr 0 a)) = [some .target, none] := by decide

theorem wit_StatusAndEventReads :
    ReadsSlot .status (read 5 2) State.reset ∧ readTarget (.eventRead (read 5 2)) = some (read 5 2)
    ∧ (ReadsSlot .event (read 0 3) ready ∧ roleOf ready.pi (read 0 3).header = .supervisor)
    ∧ (ReadsSlot .event (read 1 3) ready ∧ roleOf ready.pi (read 1 3).header ≠ .supervisor) := by decide

theorem wit_ReportWindowPopsWords :
    (ReadsSlot .reportWindow (read 0 8192) ready ∧ roleOf ready.pi (read 0 8192).header = .supervisor)
    ∧ (ReadsSlot .reportWindow (read 2 8255) ready ∧ roleOf ready.pi (read 2 8255).header ≠ .supervisor) := by decide

/-- A FIFO of 510 words takes two words and not three; a store of two from 63 crosses the threshold 64. -/
theorem wit_RecordsStoredWholeOrDropped :
    let r : Nat → ReportUnit := fun n => { ReportUnit.reset with fifo := List.replicate n 0 }
    (([0, 0] : List Word).length ≤ 512 - (r 510).fifo.length ∧ ¬ ((r 510).fifo.length ≤ 64 ∧ 64 < (r 510).fifo.length + 2))
    ∧ (512 - (r 510).fifo.length < ([0, 0, 0] : List Word).length)
    ∧ ((r 63).fifo.length ≤ 64 ∧ 64 < (r 63).fifo.length + 2) := by
  simp only [List.length_replicate, List.length_cons, List.length_nil]
  decide

theorem wit_LotHeaderOpensLot :
    let b := lotHeaderRecord 1
    (Offers .lotHeader .lotHeader b (inLot .closing ready) ∧ (inLot .closing ready).wt.lot ≠ .noLot)
    ∧ (Offers .lotHeader .lotHeader (lotHeaderRecord 2) ready ∧ 1 < fld (recordWords .lotHeader (lotHeaderRecord 2) ready)[0] 44 4)
    ∧ (Offers .lotHeader .lotHeader b ready ∧ ready.wt.lot = .noLot ∧ fld (recordWords .lotHeader b ready)[0] 44 4 ≤ 1) := by
  (repeat' apply And.intro) <;> decide

theorem wit_SlotRangesNeverOverlap :
    let raw := fun n => if n = 0 then 100 else 4096
    effectiveEnd raw 1 ≤ 100 ∧ 100 < effectiveEnd raw 2 ∧ effectiveEnd raw 1 ≤ 4095 ∧ 4095 < effectiveEnd raw 2 := by decide

theorem wit_WaferEntryDecided :
    let b := waferRecord 4
    let moved := waferAt 3 { present .onRobot with aligned := true } (inLot .opened ready)
    (Offers (.waferEntry 3) .waferEntry b ready ∧ ready.wt.lot = .noLot)
    ∧ (Offers (.waferEntry 3) .waferEntry (waferRecord 5) (inLot .loading ready)
      ∧ fld (recordWords (.waferEntry 3) (waferRecord 5) (inLot .loading ready))[0] 0 8 ≠ 4)
    ∧ (Offers (.waferEntry 3) .waferEntry b moved ∧ moved.wt.lot = .opened
      ∧ fld (recordWords (.waferEntry 3) b moved)[0] 0 8 = 4 ∧ ¬ Untouched (slotOf moved.wt 3))
    ∧ (Offers (.waferEntry 3) .waferEntry b (inLot .opened ready) ∧ Untouched (slotOf (inLot .opened ready).wt 3)
      ∧ fld (recordWords (.waferEntry 3) b (inLot .opened ready))[0] 0 8 = 4) := by
  (repeat' apply And.intro) <;> decide

def slotMapRecord (second : Word) : WriteBurst := record 1 194 0x42 [0x4321111111111111, second]

theorem wit_SlotMapOpensTheCarrier :
    let s := inLot .loading ready
    let code : Word → CarrierSlot → Nat := fun x c =>
      if c.val < 16 then fld (recordWords .slotMap (slotMapRecord x) s)[0] (4 * c.val) 4
      else fld (recordWords .slotMap (slotMapRecord x) s)[1] (4 * (c.val - 16)) 4
    (Offers .slotMap .slotMap (slotMapRecord 0) (inLot .opened ready) ∧ (inLot .opened ready).wt.lot ≠ .loading)
    ∧ (Offers .slotMap .slotMap (slotMapRecord 0x511111111) s ∧ 4 < code 0x511111111 24)
    ∧ (Offers .slotMap .slotMap (slotMapRecord 0x411111111) s ∧ s.wt.lot = .loading
      ∧ ∀ c, 1 ≤ code 0x411111111 c ∧ code 0x411111111 c ≤ 4) := by
  (repeat' apply And.intro) <;> decide

/-- An empty aligner, an undefined status, a read equal to the reference, a mismatch, and a wafer with no reference. -/
theorem wit_IdReadSetsTheState :
    (Offers .idRead .idRead (idRecord 1 0) ready ∧ ready.wt.aligner = none)
    ∧ (Offers .idRead .idRead (idRecord 3 0) (onAligner none) ∧ (onAligner none).wt.aligner = some 3
      ∧ fld (recordWords .idRead (idRecord 3 0) (onAligner none))[1] 32 8 = 3)
    ∧ (let w := recordWords .idRead (idRecord 1 0x4C4B4A48) (onAligner (some idText))
      Offers .idRead .idRead (idRecord 1 0x4C4B4A48) (onAligner (some idText)) ∧ fld w[1] 32 8 = 1
      ∧ (onAligner (some idText)).wt.idMask.getLsbD 8 = true ∧ byteAt w[1] 0 ≠ idText[8])
    ∧ (let w := recordWords .idRead (idRecord 2 0) (onAligner (some idText))
      Offers .idRead .idRead (idRecord 2 0) (onAligner (some idText)) ∧ fld w[1] 32 8 = 2) := by
  (repeat' apply And.intro) <;> decide

theorem wit_IdOverrideDecided :
    let n := fun (x : Word) (s : State) => fld (recordWords .control (control 0x12 x) s)[0] 0 8
    let s := waferAt 24 { present .onAligner with idState := .idMismatch } (inLot .closing ready)
    (Offers .control .idOverride (control 0x12 1) (inLot .loading ready))
    ∧ (Offers .control .idOverride (control 0x12 26) (inLot .opened ready) ∧ 25 < n 26 (inLot .opened ready))
    ∧ (Offers .control .idOverride (control 0x12 0) (inLot .opened ready) ∧ n 0 (inLot .opened ready) < 1)
    ∧ (Offers .control .idOverride (control 0x12 1) s ∧ n 1 s = 1 ∧ (slotOf s.wt 0).idState = .unchecked)
    ∧ (Offers .control .idOverride (control 0x12 25) s ∧ n 25 s = 25 ∧ (slotOf s.wt 24).idState = .idMismatch) := by
  (repeat' apply And.intro) <;> decide

theorem wit_LotCloseDecided :
    (Offers .control .lotClose (control 0x11 0) (inLot .loading ready))
    ∧ (Offers .control .lotClose (control 0x11 0) (session .active) ∧ (session .active).wt.lot = .opened
      ∧ ¬ AtRest (session .active).wt)
    ∧ (Offers .control .lotClose (control 0x11 0) carrier ∧ carrier.wt.lot = .opened ∧ AtRest carrier.wt) := by
  (repeat' apply And.intro) <;> decide

theorem wit_HandlerCommandsPass :
    let s := waferAt 3 (present .onAligner) (inLot .opened ready)
    (Commands .pick .carrier (command 1 1 4) carrier ∧ carrier.wt.channel = .idle ∧ carrier.wt.lot = .opened
      ∧ fld (recordWords .mailbox (command 1 1 4) carrier)[6] 16 8 = 4 ∧ carrier.wt.robot = none
      ∧ (slotOf carrier.wt 3).condition = .present ∧ (slotOf carrier.wt 3).location = .inCarrier)
    ∧ (Commands .pick .aligner (command 1 2 0) s ∧ s.wt.channel = .idle ∧ s.wt.robot = none ∧ s.wt.aligner = some 3)
    ∧ (let t := session .ending
      Commands .pick .stage (command 1 3 0) t ∧ t.wt.channel = .idle ∧ t.wt.robot = none ∧ t.wt.chamber = some 3
      ∧ ∀ e ∈ t.rs.table, isSite e.2.state = false)
    ∧ (let t := onRobot true
      Commands .place .aligner (command 2 2 0) t ∧ t.wt.channel = .idle ∧ t.wt.robot = some 3 ∧ t.wt.aligner = none
      ∧ Commands .place .stage (command 2 3 0) t ∧ t.wt.chamber = none ∧ (slotOf t.wt 3).aligned = true
      ∧ (slotOf t.wt 3).idState = .idOk ∧ t.pi.focusRecipe ≠ none ∧ t.pi.samplingRecipe ≠ none ∧ t.pi.geometryRecipe ≠ none
      ∧ Commands .place .carrier (command 2 1 4) t ∧ fld (recordWords .mailbox (command 2 1 4) t)[6] 16 8 = 4) := by
  (repeat' apply And.intro) <;> decide

/-- A failing first check, the last check failing, and none. -/
theorem wit_FirstFailingCheckRewrites :
    let reason := fun (v p n : Nat) (s : State) =>
      let w := recordWords .mailbox (command v p n) s
      tableReason (commandVerb w) (commandPlace w) (commandCarrier w).toNat s
    (Offers .mailbox .handlerCommand (command 0 1 4) carrier ∧ reason 0 1 4 carrier = some .malformed)
    ∧ (Offers .mailbox .handlerCommand (command 1 3 0) (site .active (entry .dispatched))
      ∧ reason 1 3 0 (site .active (entry .dispatched)) = some .siteBusy)
    ∧ (Offers .mailbox .handlerCommand (command 1 1 4) carrier ∧ reason 1 1 4 carrier = none) := by
  (repeat' apply And.intro) <;> decide

/-- An idle channel, another tag, an undefined outcome, and a move in CLOSING that leaves the lot at rest and one that does not. -/
theorem wit_CompletionMovesWafer :
    let s := underWay .place .carrier (onRobot false)
    let closing := inLot .closing s
    let t := { withSlot 3 { slotOf s.wt 3 with location := .inCarrier } closing.wt with robot := none, channel := .idle }
    (Offers .completion .completion (completed 13 1) ready ∧ ready.wt.channel = .idle)
    ∧ (Offers .completion .completion (completed 14 1) s
      ∧ fld (recordWords .completion (completed 14 1) s)[0] 0 8 = 14)
    ∧ (Offers .completion .completion (completed 13 3) s ∧ fld (recordWords .completion (completed 13 3) s)[0] 8 8 = 3)
    ∧ (Offers .completion .completion (completed 13 1) s ∧ fld (recordWords .completion (completed 13 1) s)[0] 0 8 = 13
      ∧ fld (recordWords .completion (completed 13 1) s)[0] 8 8 = 1 ∧ s.wt.lot ≠ .closing)
    ∧ (Offers .completion .completion (completed 13 1) closing ∧ closing.wt.lot = .closing ∧ AtRest t) := by
  (repeat' apply And.intro) <;> decide

theorem wit_PlaceStageOpensSession :
    let s := underWay .place .stage (onRobot true)
    Offers .completion .completion (completed 13 1) s ∧ fld (recordWords .completion (completed 13 1) s)[0] 0 8 = 13
    ∧ fld (recordWords .completion (completed 13 1) s)[0] 8 8 = 1 ∧ s.pi.focusRecipe = some focus
    ∧ s.pi.samplingRecipe = some sampling ∧ s.pi.geometryRecipe = some geometry := by decide

theorem wit_PickStageEndsSession :
    let s := underWay .pick .stage (session .exiting)
    Offers .completion .completion (completed 13 1) s ∧ fld (recordWords .completion (completed 13 1) s)[0] 0 8 = 13
    ∧ fld (recordWords .completion (completed 13 1) s)[0] 8 8 = 1 ∧ s.rs.session.chamberSlot = some 3 := by decide

theorem wit_FaultHaltsTheChannel :
    let s := underWay .pick .stage (session .exiting)
    Offers .completion .completion (completed 13 2) s ∧ fld (recordWords .completion (completed 13 2) s)[0] 0 8 = 13
    ∧ fld (recordWords .completion (completed 13 2) s)[0] 8 8 = 2 := by decide

/-- No halt, another slot, codes 7 and 6, a bad place, and each of the four good cases. -/
theorem wit_RelocateRepairsTheFault :
    let w := fun (l : Nat) (s : State) => (recordWords .control (relocateTo l) s)[0]
    let opens := faulted .place .stage false (inLot .opened (recipes ready))
    let exiting := faulted .pick .stage true (session .exiting)
    let held := { exiting with rs := { exiting.rs with session := { exiting.rs.session with remembered := some .active } } }
    let carried := faulted .pick .carrier false (inLot .closing ready)
    (Offers .control .relocate (relocateTo 2) ready ∧ ready.wt.channel = .idle)
    ∧ (Offers .control .relocate (relocateTo 7) opens ∧ 6 < fld (w 7 opens) 8 8 ∧ fld (w 7 opens) 0 8 = 4)
    ∧ (Offers .control .relocate (relocateTo 6) opens ∧ fld (w 6 opens) 8 8 = Location.unknown.code)
    ∧ (Offers .control .relocate (relocateTo 4) opens ∧ fld (w 4 opens) 8 8 = Location.inChamber.code
      ∧ opens.rs.session.state = .none ∧ opens.wt.chamber = none)
    ∧ (Offers .control .relocate (relocateTo 4) held ∧ held.rs.session.state = .exiting ∧ held.wt.chamber = none
      ∧ held.rs.session.remembered = some .active)
    ∧ (Offers .control .relocate (relocateTo 5) held ∧ fld (w 5 held) 8 8 = Location.returned.code
      ∧ (slotOf held.wt 3).visited = true)
    ∧ (Offers .control .relocate (relocateTo 1) carried ∧ fld (w 1 carried) 8 8 = Location.inCarrier.code
      ∧ (slotOf carried.wt 3).visited = false ∧ carried.wt.lot = .closing) := by
  (repeat' apply And.intro) <;> decide

/-- A ceiling 1060 gives the wide sweep its exact span; 1059 does not. -/
theorem wit_FocusRecipeDecided :
    let w := fun c : Int => recordWords .focusRecipe (focusRecord c) ready
    (Offers .focusRecipe .focusRecipe (focusRecord 1059) ready
      ∧ ¬ (((fld (w 1059)[1] 0 8 : Int) - 1) * fld (w 1059)[1] 8 8 ≤ sfld (w 1059)[0] 32 16 - sfld (w 1059)[0] 16 16))
    ∧ (Offers .focusRecipe .focusRecipe (focusRecord 1500) ready
      ∧ (let x := w 1500
        sfld x[0] 16 16 < sfld x[0] 32 16 ∧ sfld x[0] 16 16 ≤ sfld x[0] 0 16 ∧ sfld x[0] 0 16 ≤ sfld x[0] 32 16
        ∧ 5 ≤ fld x[1] 0 8 ∧ fld x[1] 0 8 ≤ 12 ∧ 1 ≤ fld x[1] 8 8 ∧ 3 ≤ fld x[1] 16 8 ∧ fld x[1] 16 8 ≤ fld x[1] 0 8
        ∧ 1 ≤ fld x[1] 24 8 ∧ 1 ≤ sfld x[2] 0 16 ∧ -32767 ≤ sfld x[2] 16 16 ∧ sfld x[2] 16 16 ≤ -1 ∧ fld x[1] 32 4 ≤ 4
        ∧ fld x[1] 36 4 ≠ 1 ∧ fld x[1] 40 4 ≤ 1 ∧ 1 ≤ fld x[1] 44 4 ∧ fld x[1] 44 4 ≤ 4 ∧ sfld x[3] 0 32 = 0 ∧ sfld x[3] 32 32 = 0
        ∧ ((fld x[1] 0 8 : Int) - 1) * fld x[1] 8 8 ≤ sfld x[0] 32 16 - sfld x[0] 16 16
        ∧ ((fld x[1] 16 8 : Int) - 1) * fld x[1] 24 8 ≤ sfld x[0] 32 16 - sfld x[0] 16 16)) := by
  (repeat' apply And.intro) <;> decide

theorem wit_SamplingRecipeDecided :
    let w := fun n : Nat => recordWords .samplingRecipe (samplingRecord n) ready
    (Offers .samplingRecipe .samplingRecipe (samplingRecord 3) ready ∧ 2 < fld (w 3)[0] 32 8 ∧ fld (w 3)[2] (4 * 2) 4 = 0)
    ∧ (Offers .samplingRecipe .samplingRecipe (samplingRecord 2) ready ∧ fld (w 2)[0] 0 4 ≤ 1 ∧ fld (w 2)[0] 4 4 ≤ 1
      ∧ fld (w 2)[0] 8 4 ≤ 3 ∧ 1 ≤ fld (w 2)[0] 16 16 ∧ fld (w 2)[0] 16 16 ≤ 508 ∧ fld (w 2)[0] 32 8 = 2
      ∧ ∀ j, j < 2 → 1 ≤ fld (w 2)[2] (4 * j) 4 ∧ fld (w 2)[2] (4 * j) 4 ≤ 3) := by decide

theorem wit_GeometryRecipeDecided :
    let w := fun r : Nat => recordWords .geometryRecipe (geometryRecord r) ready
    (Offers .geometryRecipe .geometryRecipe (geometryRecord 150001) ready ∧ ¬ fld (w 150001)[2] 0 32 ≤ 150000)
    ∧ (Offers .geometryRecipe .geometryRecipe (geometryRecord 150000) ready
      ∧ (let x := w 150000
        1000 ≤ fld x[0] 0 32 ∧ fld x[0] 0 32 ≤ 40000 ∧ 1000 ≤ fld x[0] 32 32 ∧ fld x[0] 32 32 ≤ 40000
        ∧ -150000 ≤ sfld x[1] 0 32 ∧ sfld x[1] 0 32 ≤ 150000 ∧ -150000 ≤ sfld x[1] 32 32 ∧ sfld x[1] 32 32 ≤ 150000
        ∧ fld x[2] 0 32 = 150000 ∧ 1 ≤ fld x[2] 32 16 ∧ fld x[2] 32 16 ≤ 1000 ∧ fld x[2] 48 6 ≠ 0
        ∧ (∀ i : Fin 4, -2000 ≤ sfld x[3] (16 * i.val) 16 ∧ sfld x[3] (16 * i.val) 16 ≤ 2000)
        ∧ (∀ i : Fin 2, -2000 ≤ sfld x[4] (16 * i.val) 16 ∧ sfld x[4] (16 * i.val) 16 ≤ 2000)
        ∧ ready.pi.focusRecipe = none)) := by decide

theorem wit_AlignmentFlagsAndCapability :
    let b := fun x : Int => control 0x14 (putS 0 32 x)
    let w := fun (x : Int) (s : State) => (recordWords .control (b x) s)[0]
    (Offers .control .alignment (b 0) (session .exiting))
    ∧ (Offers .control .alignment (b 2001) (session .active) ∧ ¬ sfld (w 2001 (session .active)) 0 32 ≤ 2000)
    ∧ (Offers .control .alignment (b (-2000)) (session .aligning) ∧ -2000 ≤ sfld (w (-2000) (session .aligning)) 0 32
      ∧ sfld (w (-2000) (session .aligning)) 32 32 = 0)
    ∧ (Offers .control .alignment (b 2000) (session .ending) ∧ sfld (w 2000 (session .ending)) 0 32 ≤ 2000
      ∧ sfld (w 2000 (session .ending)) 32 32 = 0)
    ∧ (Offers .control .ackFlags (control 0x18 3) ready ∧ (recordWords .control (control 0x18 3) ready)[0].getLsbD 1 = true)
    ∧ (Offers .control .ackFlags (control 0x18 1) ready ∧ (recordWords .control (control 0x18 1) ready)[0] = 1)
    ∧ Offers .capability .capability (record 3 260 0x52 [37]) ready := by
  (repeat' apply And.intro) <;> decide

def dropping : State := withEntries [(4, entry .recalling), (5, entry .queued)] [5] [] (session .active)

theorem wit_EndWaferDecided :
    (Offers .control .endWafer (control 0x15 0) (session .ending))
    ∧ (Offers .control .endWafer (control 0x15 0) dropping ∧ dropping.rs.session.state = .active ∧ SiteAndLane dropping) := by
  refine ⟨by decide, by decide, by decide, ?_⟩
  unfold SiteAndLane
  decide

/-- The refusals in their order, a promotion, and a new entry beside a DISPATCHED one. -/
theorem wit_UrgentDecided :
    let b := fun i : Nat => control 0x16 (put 0 16 i)
    let i := fun (n : Nat) (s : State) => fld (recordWords .control (b n) s)[0] 0 16
    let s := site .active (entry .dispatched)
    let full := { s with rs := { s.rs with lane := [2, 3, 4, 5] } }
    let waits := site .aligning (entry .queued)
    (Offers .control .urgent (b 250) (session .ending) ∧ (session .ending).rs.session.state = .ending)
    ∧ (Offers .control .urgent (b 249) s ∧ i 249 s < rangeStart s.wt 3)
    ∧ (Offers .control .urgent (b 399) s ∧ i 399 s < rangeEnd s.wt 3 ∧ Sparse.lookup s.rs.defects 399 = none)
    ∧ (Offers .control .urgent (b 250) s ∧ rangeStart s.wt 3 ≤ i 250 s ∧ Sparse.lookup s.rs.defects 250 = some defect
      ∧ s.rs.table.find? (fun p => decide (p.2.defect = some 250 ∧ p.2.kind ≠ .calibration)) = some (0, entry .dispatched))
    ∧ (Offers .control .urgent (b 250) waits ∧ laneOccupancy waits.rs < 4 ∧ waits.rs.session.state = .aligning
      ∧ Sparse.lookup waits.rs.table 0 = some (entry .queued))
    ∧ (Offers .control .urgent (b 256) full ∧ 4 ≤ laneOccupancy full.rs)
    ∧ (Offers .control .urgent (b 256) s ∧ i 256 s = 256 ∧ Sparse.lookup s.rs.defects 256 = some defect
      ∧ (∀ p ∈ s.rs.table, p.2.defect ≠ some 256) ∧ laneOccupancy s.rs < 4 ∧ 1 ≤ s.rs.session.tallies.selected + 2
      ∧ Sparse.lookup s.rs.table 1 = none ∧ Sparse.lookup s.rs.table 0 ≠ none
      ∧ siteEntry s.rs = some (0, entry .dispatched)) := by
  (repeat' apply And.intro) <;> decide

theorem wit_UrgentDecided_tableFull :
    let t := withEntries ((List.range 3).map fun n => (n, entry .retired)) [] [] (session .active)
    let s := { t with rs := { t.rs with
      defects := [(256, defect)], session := { t.rs.session with tallies := WaferTallies.zero } } }
    Offers .control .urgent (control 0x16 256) s ∧ laneOccupancy s.rs < 4 ∧ (∀ p ∈ s.rs.table, p.2.defect ≠ some 256)
    ∧ ∀ tag, tag ≤ s.rs.session.tallies.selected + 2 → Sparse.lookup s.rs.table tag ≠ none := by
  refine ⟨by decide, by decide, by decide, ?_⟩
  intro tag h
  have : tag < 3 := Nat.lt_succ_of_le h
  interval_cases tag <;> decide

theorem wit_TableLoadAndStream :
    let b := fun start count : Nat => control 0x17 (put 0 16 start ||| put 16 16 count)
    let w := fun (start count : Nat) (s : State) => (recordWords .control (b start count) s)[0]
    let s := { ready with rs := { ready.rs with cursor := 1020, remaining := 4 } }
    let busy := { session .none with rs := { (session .none).rs with remaining := 1 } }
    let bad := line 0 320 (putS 0 16 501 ||| put 32 1 1)
    (Offers .control .tableLoad (b 0 1) (session .none) ∧ (session .none).wt.chamber ≠ none)
    ∧ (Offers .control .tableLoad (b 1023 2) ready ∧ ¬ fld (w 1023 2 ready) 0 16 + fld (w 1023 2 ready) 16 16 ≤ 1024)
    ∧ (Offers .control .tableLoad (b 1023 1) ready ∧ fld (w 1023 1 ready) 0 16 = 1023 ∧ fld (w 1023 1 ready) 16 16 = 1)
    ∧ (FullClaim .tableStream streamLine ready ∧ ready.rs.remaining = 0)
    ∧ (FullClaim .tableStream streamLine busy ∧ busy.rs.remaining ≠ 0 ∧ busy.wt.chamber ≠ none)
    ∧ (FullClaim .tableStream bad s ∧ (claimWords .tableStream bad s)[3].getLsbD 32 = true
      ∧ sfld (claimWords .tableStream bad s)[3] 0 16 = 501)
    ∧ (FullClaim .tableStream streamLine s ∧ sfld (claimWords .tableStream streamLine s)[3] 0 16 = -4
      ∧ sfld (claimWords .tableStream streamLine s)[3] 16 16 = 6 ∧ s.wt.chamber = none ∧ s.rs.session.state = .none) := by
  (repeat' apply And.intro) <;> decide

theorem wit_DefectEntryDecided :
    let b := fun (n : Nat) (c : Int) => line 0 (1024 + n) (putS 0 8 c)
    let w := fun (n : Fin 4096) (c : Int) (s : State) => (claimWords (.defect n) (b n c) s)[0]
    (FullClaim (.defect 4095) (b 4095 0) ready ∧ ready.wt.lot = .noLot)
    ∧ (FullClaim (.defect 399) (b 399 0) (session .active) ∧ 399 < rangeEnd (session .active).wt 3
      ∧ rangeStart (session .active).wt 3 ≤ 399 ∧ (slotOf (session .active).wt 3).location = .inChamber)
    ∧ (FullClaim (.defect 0) (b 0 16) (inLot .loading ready) ∧ sfld (w 0 16 (inLot .loading ready)) 0 8 = 16)
    ∧ (FullClaim (.defect 4095) (b 4095 (-16)) (session .active)
      ∧ (∀ c : CarrierSlot, ¬ 4095 < rangeEnd (session .active).wt c)
      ∧ sfld (w 4095 (-16) (session .active)) 0 8 = -16) := by decide

theorem wit_SelectionTakesTheFirstPassing :
    let s := session .aligning
    let r := { s.rs with
      defects := [(250, defect), (251, defect), (256, defect)]
      session := { s.rs.session with tallies := WaferTallies.zero } }
    r.session.tallies.selected = 0 ∧ r.session.tallies.skipped = 0 ∧ r.session.tallies.overCap = 0
    ∧ r.session.tallies.absent = 0
    ∧ (let m := { sampling with cap := 2 }
      (runSelection m 250 257 r).queue = [0, 1] ∧ (runSelection m 250 257 r).session.tallies.overCap = 1
      ∧ (runSelection m 250 257 r).session.tallies.absent = 4) := by decide

theorem wit_ZoneOfTarget : ((-150000 : Int) + 25000 * 8 ≤ 50000 ∧ (50000 : Int) < -150000 + 25000 * 9)
    ∧ ((-150000 : Int) + 25000 * 0 ≤ -150000 ∧ (149999 : Int) < -150000 + 25000 * 12) ∧ zoneOf (51378, -29516) = (8, 4) := by decide

/-- Both lists empty, a head in the queue that passes, a calibration at the head of the lane, and a target off the wafer. -/
theorem wit_DispatchSendsTheNext :
    let r := read 2 256
    let calibration := { entry .queued with kind := .calibration, defect := none }
    let lane := withEntries [(511, calibration)] [] [511] (session .active)
    let far := { waiting with rs := { waiting.rs with
      session := { waiting.rs.session with recipe := some { wafer with geometry := { geometry with radius := 59000 } } } } }
    (ReadsSlot .target r waiting ∧ roleOf waiting.pi r.header = .stage ∧ waiting.rs.session.state = .active
      ∧ (∀ p ∈ waiting.rs.table, isSite p.2.state = false) ∧ waiting.rs.session.recipe = some wafer)
    ∧ (ReadsSlot .target r (session .active) ∧ (session .active).rs.lane = [] ∧ (session .active).rs.queue = [])
    ∧ (waiting.rs.lane = [] ∧ waiting.rs.queue = [0] ∧ Sparse.lookup waiting.rs.defects 250 = some defect
      ∧ Sparse.lookup waiting.rs.corrections ((defect.column + 16) * 32 + (defect.row + 16)).toNat = some (-4, 6)
      ∧ 51378 * 51378 + 29516 * 29516 ≤ 147000 * 147000)
    ∧ (lane.rs.lane = [511] ∧ Sparse.lookup lane.rs.table 511 = some calibration ∧ focus.calX = 0)
    ∧ (ReadsSlot .target r far ∧ 59000 * 59000 < 51378 * 51378 + 29516 * 29516) := by decide

theorem wit_TargetReadsServed :
    let r := read 2 256
    let s := site .active (entry .recalling)
    (ReadsSlot .target r ready ∧ ready.rs.session.state = .none)
    ∧ ReadsSlot .target r (session .aligning) ∧ ReadsSlot .target r (session .ending)
    ∧ (ReadsSlot .target (read 5 256) (session .active) ∧ roleOf ready.pi (read 5 256).header ≠ .stage)
    ∧ (siteEntry (site .ending (entry .dispatched)).rs = some (0, entry .dispatched)
      ∧ Sparse.lookup (site .ending (entry .dispatched)).rs.defects 250 = some defect)
    ∧ siteEntry (site .ending (entry .focused)).rs = some (0, entry .focused)
    ∧ (ReadsSlot .target r s ∧ siteEntry s.rs = some (0, entry .recalling) ∧ roleOf s.pi r.header = .stage
      ∧ s.rs.session.state = .active ∧ Sparse.lookup s.rs.table 0 = some (entry .recalling)) := by decide

theorem wit_ArrivalDecided :
    let b := arrivalRecord 51478
    let s := site .ending (entry .dispatched)
    (Offers .arrival .arrival (b 1) (session .active) ∧ (session .active).rs.table = [])
    ∧ (Offers .arrival .arrival (b 1) (site .active (entry .arrived)) ∧ (entry .arrived).state = .arrived)
    ∧ (Offers .arrival .arrival (b 3) s ∧ fld (recordWords .arrival (b 3) s)[0] 16 8 = 3)
    ∧ (Offers .arrival .arrival (b 2) s ∧ siteEntry s.rs = some (0, entry .dispatched)
      ∧ (entry .dispatched).sequence = some (BitVec.ofNat 16 (fld (recordWords .arrival (b 2) s)[0] 0 16))
      ∧ s.rs.session.recipe = some wafer ∧ Sparse.lookup s.rs.table 0 = some (entry .dispatched)
      ∧ sfld (recordWords .arrival (b 2) s)[1] 0 32 - 51378 = 100) := by
  (repeat' apply And.intro) <;> decide

theorem wit_ExpiriesOfTheStepTimer :
    (ready.rs.timer = .stopped)
    ∧ (∀ q ∈ [RevisitState.dispatched, .recalling, .arrived, .focusing, .focused],
      (site .active (entry q)).rs.timer ≠ .stopped ∧ siteEntry (site .active (entry q)).rs = some (0, entry q)
      ∧ Sparse.lookup (site .active (entry q)).rs.table 0 = some (entry q) ∧ isSite q = true)
    ∧ (entry .dispatched).attempts + 1 < ready.pi.setup.maxAttempts
    ∧ (let e := entry .recalling
      siteEntry (site .active e).rs = some (0, e) ∧ e.state ≠ .dispatched ∧ e.state ≠ .arrived ∧ e.state ≠ .focusing
      ∧ e.state ≠ .focused)
    ∧ (site .ending (entry .dispatched)).rs.session.state = .ending
    ∧ ready.pi.setup.maxAttempts ≤ ({ entry .dispatched with attempts := 1 } : RevisitEntry).attempts + 1 := by decide

theorem wit_ResultDecided :
    let s := site .ending (entry .focused)
    let w := fun o c => (recordWords .result (resultRecord o c) s)[0]
    (Offers .result .result (resultRecord 1 0) (session .active) ∧ (session .active).rs.table = [])
    ∧ (Offers .result .result (resultRecord 1 0) (site .active (entry .focusing)))
    ∧ (siteEntry s.rs = some (0, entry .focused) ∧ Sparse.lookup s.rs.table 0 = some (entry .focused))
    ∧ (Offers .result .result (resultRecord 4 0) s ∧ fld (w 4 0) 16 8 = 4)
    ∧ (Offers .result .result (resultRecord 1 64) s ∧ fld (w 1 64) 24 8 = 64)
    ∧ (Offers .result .result (resultRecord 3 0) s ∧ fld (w 3 0) 16 8 = 3)
    ∧ (Offers .result .result (resultRecord 1 63) s ∧ fld (w 1 63) 16 8 = 1 ∧ fld (w 1 63) 24 8 = 63
      ∧ (entry .focused).sequence = some (BitVec.ofNat 16 (fld (w 1 63) 0 16)))
    ∧ (Offers .result .result (resultRecord 2 64) s ∧ fld (w 2 64) 16 8 = 2) := by
  (repeat' apply And.intro) <;> decide

/-- A span that fills the range, a plan inside it, and centres past each end. -/
theorem wit_PlansLieInTheFocusRange :
    1 ≤ 9 ∧ ((9 : Int) - 1) * 75 ≤ focus.ceiling - focus.floor ∧ ((9 : Int) - 1) * 20 ≤ focus.ceiling - focus.floor
    ∧ (focus.floor ≤ 1200 - 20 * (((9 : Int) - 1) / 2) ∧ 1200 - 20 * (((9 : Int) - 1) / 2) + 160 ≤ focus.ceiling)
    ∧ 900 - 20 * (((9 : Int) - 1) / 2) < focus.floor
    ∧ focus.ceiling < 1500 - 20 * (((9 : Int) - 1) / 2) + 160 := by decide

def tracked (v : Int) : Zone := { trust := .tracking, value := v, count := 1, measured := true }

theorem wit_PredictionSources :
    Sparse.lookup ([(100, tracked 19215)] : Sparse Zone) (12 * 8 + 4) = some (tracked 19215)
    ∧ predict [(100, tracked 19215), (101, tracked 19240)] focus (7, 4) = (19228, .neighbours)
    ∧ predict [(100, { tracked 19215 with trust := .seeded })] focus (8, 4) = (19215, .seed)
    ∧ predict [(0, tracked 19215)] focus (8, 4) = (19215, .wafer) ∧ predict [] focus (8, 4) = (19200, .nominal)
    ∧ (2 * |roundDiv 5 2 * 2 - 5| = 2 ∧ |(5 : Int)| < |roundDiv 5 2 * 2|) := by decide

/-- IDLE with no site entry, the served directives, a decision that sweeps, and a mode open and none. -/
theorem wit_PlanReadDecidesTheStep :
    let r := read 3 258
    let s := site .active (entry .arrived)
    (ReadsSlot .plan r ready ∧ ready.rs.table = [])
    ∧ siteEntry (site .active (entry .dispatched)).rs = some (0, entry .dispatched)
    ∧ (ReadsSlot .plan (read 4 258) s ∧ roleOf s.pi (read 4 258).header ≠ .column)
    ∧ (siteEntry (site .active (entry .focusing)).rs = some (0, entry .focusing) ∧ context.sweepNumber = some 1)
    ∧ (siteEntry (site .active (entry .focused)).rs = some (0, entry .focused) ∧ context.image = some (.seHigh, 19263))
    ∧ (ReadsSlot .plan r s ∧ siteEntry s.rs = some (0, entry .arrived) ∧ roleOf s.pi r.header = .column
      ∧ s.fe.context = some context ∧ s.rs.session.recipe = some wafer ∧ Sparse.lookup s.rs.table 0 = some (entry .arrived)
      ∧ stepOfCode (sampling.cadence[0]).toNat = some .predict ∧ limitStep (Sparse.lookup s.fe.zones 100) .predict = .wide)
    ∧ limitStep (some (tracked 19215)) .predict = .predict
    ∧ (geometry.modes.getLsbD Mode.tilt.index.val = true ∧ s.fe.capability.getLsbD Mode.tilt.index.val = true
      ∧ geometry.modes.getLsbD Mode.seHigh.index.val = true) := by decide

/-- No site entry, another sweep, a wrong count, and the peak of 12.4; a lane of four bars the calibration. -/
theorem wit_SweepOkDecided :
    let s := site .active (entry .focusing)
    let w := fun n => recordWords .sweep (sweep n scores) s
    (Offers .sweep .sweep (sweep 9 scores) (session .active) ∧ (session .active).rs.table = [])
    ∧ (∀ q ∈ [RevisitState.dispatched, .recalling, .arrived],
      let t := site .active (entry q)
      let s := { t with fe := { t.fe with context := some { context with
        step := none, prediction := none, plan := none, sweepNumber := none, image := none } } }
      Offers .sweep .sweep (sweep 9 scores) s ∧ siteEntry s.rs = some (0, entry q) ∧ (entry q).state ≠ .focusing)
    ∧ (let s := { s with fe := { s.fe with context := some { context with sweepNumber := some 2 } } }
      Offers .sweep .sweep (sweep 9 scores) s ∧ (∀ c ∈ s.fe.context, c.sweepNumber ≠ some (fld (w 9)[0] 16 8)))
    ∧ (Offers .sweep .sweep (sweep 10 scores) s ∧ fld (w 10)[0] 24 8 = 10)
    ∧ (Offers .sweep .sweep (sweep 9 scores) s ∧ siteEntry s.rs = some (0, entry .focusing) ∧ s.fe.context = some context
      ∧ s.rs.session.recipe = some wafer ∧ context.plan = some { z0 := 1120, dz := 20, n := 9, centre := 1200 }
      ∧ (entry .focusing).sequence = some (BitVec.ofNat 16 (fld (w 9)[0] 0 16)) ∧ context.sweepNumber = some (fld (w 9)[0] 16 8)
      ∧ fld (w 9)[0] 24 8 = 9 ∧ Sparse.lookup s.rs.table 0 = some (entry .focusing)
      ∧ (∀ j : Fin 12, scores.getD j.val 0 = fld ((w 9)[1 + j.val / 4]'(by omega)) (16 * (j.val % 4)) 16)
      ∧ (∀ j : Fin 12, scores.getD j.val 0 ≤ scores.getD 4 0) ∧ (∀ j : Fin 12, j.val < 4 → scores.getD j.val 0 < scores.getD 4 0)
      ∧ 200 ≤ scores.getD 4 0)
    ∧ (session .ending).rs.session.state ≠ .active ∧ laneOccupancy (withEntries [] [] [1, 2, 3] (session .active)).rs < 4
    ∧ (let fe := { FocusEngine.reset with stats := { FocusStats.start with runCount := 2, runSign := some .positive } }
      focus.driftLimit ≠ 0 ∧ focus.driftLimit ≤ (foldMeasurement focus (8, 4) 19215 19200 fe).stats.runCount) := by
  (repeat' apply And.intro) <;> decide

/-- FLAT, a pinned edge at the floor, and an edge that moves the plan, with sweeps left and with none. -/
theorem wit_SweepMissDecided :
    let s := site .active (entry .focusing)
    let low := [150, 199, 150, 0, 0, 0, 0, 0, 0]
    let edge := [900, 800, 700, 600, 500, 400, 300, 250, 210]
    let w := fun n => (recordWords .sweep (sweep 9 n) s)
    (Offers .sweep .sweep (sweep 9 low) s ∧ fld (w low)[1] 16 16 = 199 ∧ 199 < focus.contrastFloor)
    ∧ (Offers .sweep .sweep (sweep 9 edge) s ∧ fld (w edge)[1] 0 16 = 900 ∧ focus.contrastFloor ≤ 900
      ∧ (makePlan focus (1120 + 0 * 20) focus.wideN focus.wideDz).z0 ≠ 1120)
    ∧ (makePlan focus (900 + 0 * 20) focus.wideN focus.wideDz).z0 = 900
    ∧ (entry .focusing).sweeps < focus.maxSweeps ∧ focus.maxSweeps ≤ ({ entry .focusing with sweeps := 3 } : RevisitEntry).sweeps
    ∧ context.prediction = some (19200, .nominal) := by decide

/-- A residual of +120 is inside the limits, one of +121 makes the zone SUSPECT. -/
theorem wit_ZoneFoldAndDriftRun :
    Sparse.lookup ([(100, tracked 19200)] : Sparse Zone) (12 * 8 + 4) = some (tracked 19200) ∧ (tracked 19200).trust = .tracking
    ∧ focus.residualLow ≤ (19320 : Int) - 19200 ∧ (19320 : Int) - 19200 ≤ focus.residualHigh
    ∧ focus.residualHigh < (19321 : Int) - 19200
    ∧ Sparse.lookup (foldMeasurement focus (8, 4) 19321 19200 { FocusEngine.reset with zones := [(100, tracked 19200)] }).zones 100 =
      some { tracked 19200 with trust := .suspect } := by decide

/-! ### The laws every step keeps, met by a state with work under way -/

def busyState : State := (dropping.withPending [.endWafer (control 0x15 0)])

theorem wit_BypassedPartStands :
    let s : State := { State.reset with pi := PathInterface.reset 3 true, pending := [.eventRead (read 0 3)] }
    BypassHolds s ∧ s.pi.bypass = true ∧ ∃ t, step s = .next t := by
  refine ⟨?_, rfl, _, rfl⟩
  unfold BypassHolds
  decide

theorem wit_AttnFollowsItsCondition :
    let s : State := { busyState with ru := { busyState.ru with pendingEvents := 2048, attn := true } }
    AttnRight s ∧ s.ru.attn = true ∧ ∃ t, step s = .next t :=
  ⟨⟨fun _ => ⟨11, by decide⟩, fun _ => rfl⟩, rfl, _, rfl⟩

theorem wit_StoresAndCountsStayInBounds : FifoBounded busyState ∧ CountsHold busyState ∧ StoresBounded busyState
    ∧ ∃ t, step busyState = .next t := by
  refine ⟨by unfold FifoBounded; decide, by unfold CountsHold; decide, ?_, _, rfl⟩
  refine ⟨by decide, by decide, by decide, by decide, by decide, by decide, ?_, ?_, ?_⟩
  · rintro m ⟨⟩; decide
  · rintro w ⟨⟩; decide
  · rintro c ⟨⟩

theorem wit_PlacesAgreeAlways : PlacesAgree busyState ∧ busyState.wt.chamber = some 3 ∧ ∃ t, step busyState = .next t := by
  refine ⟨⟨by decide, by decide, by decide, by decide, trivial⟩, rfl, _, rfl⟩

theorem wit_OneSiteAndFourPlaces : SiteAndLane busyState ∧ ∃ t, step busyState = .next t := by
  refine ⟨?_, _, rfl⟩
  unfold SiteAndLane
  decide

end Sys2Proof.Tests
end

section
/-! PROOFS. The Path Interface's own record and its reads: the setup record (R19, R20), straddling reads (R15) and the report window
(R16, R153). -/

namespace Sys2Proof.Machine

/-! ## The setup record (R19) -/

/-- The role codes 0 to 5 name roles, the others none (R167). -/
theorem isSome_roleOfCode : ∀ n : Nat, (roleOfCode n).isSome = true ↔ n ≤ 5
  | 0 | 1 | 2 | 3 | 4 | 5 => by simp [roleOfCode]
  | n + 6 => by simp [roleOfCode]

/-- Every field of a setup record lies in its range (R19). -/
abbrev SetupInRange (w : Line) : Prop :=
  (∀ a : Fin 16, fld w[0] (4 * a.val) 4 ≤ 5)
    ∧ (1 ≤ fld w[1] 48 8 ∧ fld w[1] 48 8 ≤ 3) ∧ 1 ≤ fld w[2] 0 16 ∧ fld w[2] 0 16 ≤ 511

/-- The role map a setup record carries (R168). -/
def recordRoles (w : Line) : Vector Role 16 := Vector.ofFn fun a => (roleOfCode (fld w[0] (4 * a.val) 4)).getD .other

/-- The setup a setup record carries (R168). -/
def recordSetup (w : Line) : Setup :=
  { roleMap := recordRoles w, arrivalLimit := fld w[1] 0 16, focusLimit := fld w[1] 16 16, imageLimit := fld w[1] 32 16
    maxAttempts := fld w[1] 48 8, threshold := fld w[2] 0 16, enable := BitVec.ofNat 12 (fld w[2] 16 12) }

theorem roleOfCode_recordRoles {w : Line} (h : SetupInRange w) (a : Fin 16) :
    roleOfCode (fld w[0] (4 * a.val) 4) = some (recordRoles w)[a] := by
  obtain ⟨role, hr⟩ := Option.isSome_iff_exists.1 ((isSome_roleOfCode _).2 (h.1 a))
  simp [recordRoles, hr]

/-- A setup record is read as a setup exactly when its fields lie in their ranges (R19). -/
theorem setupOf_eq (w : Line) : setupOf w = if SetupInRange w then some (recordSetup w) else none := by
  have roles : (((List.range 16).map fun a => roleOfCode (fld w[0] (4 * a) 4)).all Option.isSome) = true
      ↔ ∀ a : Fin 16, fld w[0] (4 * a.val) 4 ≤ 5 := by
    simp [List.all_eq_true, isSome_roleOfCode, Fin.forall_iff]
  simp only [setupOf, Bool.and_eq_true, roles, decide_eq_true_eq, SetupInRange, and_assoc]
  rfl

/-- In READY with a lot the setup record is refused, whatever it holds. -/
theorem decideSetup_wrongState (w : Line) {s : State} (h : s.pi.part = .ready ∧ s.wt.lot ≠ .noLot) :
    decideSetup w s = (.wrongState, s) := by
  unfold decideSetup
  rw [if_pos h]
  rfl

theorem decideSetup_outOfRange {w : Line} {s : State} (h : ¬ (s.pi.part = .ready ∧ s.wt.lot ≠ .noLot)) (hw : ¬ SetupInRange w) :
    decideSetup w s = (.outOfRange, s) := by
  unfold decideSetup
  rw [if_neg h, setupOf_eq, if_neg hw]
  rfl

theorem decideSetup_taken {w : Line} {s : State} (h : ¬ (s.pi.part = .ready ∧ s.wt.lot ≠ .noLot)) (hw : SetupInRange w) :
    decideSetup w s = (.taken, applySetup (recordSetup w) s) := by
  unfold decideSetup
  rw [if_neg h, setupOf_eq, if_pos hw]
  rfl

/-- Settles O13: the setup's owner decides in the state of the offer, where part and lot read as before, by the ranges of R19. -/
theorem setupTakenOrRefused : Obligations.SetupTakenOrRefused := by
  intro b s h w
  have run := exec_post (c := .setup b) rfl (by decide) h.1
  refine ⟨fun hlot => ?wrongState, fun hlot hbad => ?outOfRange, fun hlot hroles ha1 ha3 ht1 ht511 => ?taken⟩
  case wrongState => rw [run, stagedStep_refuse h rfl (by decide) (decideSetup_wrongState _ hlot)]
  case outOfRange =>
    have out : ¬ SetupInRange w := by
      rintro ⟨hroles, ⟨ha1, ha3⟩, ht1, ht511⟩
      rcases hbad with ⟨a, ha⟩ | hbad
      · exact absurd (hroles a) (by omega)
      · omega
    rw [run, stagedStep_refuse h rfl (by decide) (decideSetup_outOfRange hlot out)]
  case taken =>
    have inside : SetupInRange w := ⟨hroles, ⟨ha1, ha3⟩, ht1, ht511⟩
    refine ⟨recordRoles w, roleOfCode_recordRoles inside, ?_⟩
    rw [run, stagedStep_take h rfl (decideSetup_taken hlot inside)]
    rfl

/-! ## Straddling reads (R15) -/

@[simp] theorem readBeat_zero (h : BurstHeader) (a : Nat) (response : Response) :
    readBeat h a 0#64 response = { data := 0#64, lanes := beatLanes h a, response := response } := by
  simp [readBeat]

/-- An address outside a served slot is not served by it, whether or not another slot serves it. -/
theorem servedAt_ne {z : ServedSlot} {s : State} (hb : s.pi.bypass = false) {a : Nat}
    (h : servedOfNumber (slotOfAddr s.pi.window a) ≠ some z) : servedAt s.pi a ≠ some z := by
  rw [servedAt_eq hb]
  cases hy : servedOfNumber (slotOfAddr s.pi.window a) with
  | none => simp
  | some y =>
    have hne : y ≠ z := fun e => h (e ▸ hy)
    simp [hne]

theorem servedAt_active {z : ServedSlot} {s : State} (hb : s.pi.bypass = false) (hz : s.pi.part = .ready ∨ z = .status) {a : Nat}
    (h : servedOfNumber (slotOfAddr s.pi.window a) = some z) : servedAt s.pi a = some z := by
  rw [servedAt_eq hb, h]
  exact if_pos hz

theorem refuseRead_eq (r : ReadBurst) (s : State) :
    refuseRead r s =
      { s with
        traffic := answerTraffic r
          ((readAddrs r).map fun x => { data := 0, lanes := beatLanes r.header x, response := .slverr }) } := by
  simp [refuseRead, answerRead, answerTraffic, Traffic.none]

/-- Settles O15: one beat served by the slot and one not served by it place the read across the slot's edge. -/
theorem straddlingReadsRefused : Obligations.StraddlingReadsRefused := by
  intro c r s z a a' hc hd hz ha hin ha' hout
  obtain ⟨first, count, run⟩ := exec_read s hc
  have place : readPlace s.pi r = .straddling :=
    readPlace_straddling hd ha (servedAt_active hd.1 hz hin) ha' (servedAt_ne hd.1 hout)
  rw [run, readStep_straddling _ _ _ _ _ place, refuseRead_eq]

/-! ## The report window (R16, R153) -/

/-- One word for each beat formed. -/
@[simp] theorem windowBeats_length (r : ReadBurst) (words : List Word) (first count : Nat) :
    (windowBeats r words first count).length = (((readAddrs r).drop first).take count).length := by
  simp [windowBeats]

/-- With no words to return every beat is zero. -/
theorem windowBeats_nil (r : ReadBurst) (first count : Nat) :
    windowBeats r [] first count =
      (((readAddrs r).drop first).take count).map fun a => { data := 0, lanes := beatLanes r.header a, response := .okay } := by
  apply List.ext_getElem <;> simp [windowBeats]

theorem popWindow_supervisor {r : ReadBurst} {s : State} (h : roleOf s.pi r.header = .supervisor) (first count : Nat) :
    popWindow r first count s =
      { s with
        traffic := answerTraffic r (windowBeats r s.ru.fifo first count)
        ru := { s.ru with fifo := s.ru.fifo.drop (((readAddrs r).drop first).take count).length } } := by
  simp only [popWindow, h, if_true, windowBeats_length]
  rfl

theorem popWindow_foreign {r : ReadBurst} {s : State} (h : roleOf s.pi r.header ≠ .supervisor) (first count : Nat) :
    popWindow r first count s = { s with traffic := answerTraffic r (windowBeats r [] first count) } := by
  simp only [popWindow, h, if_false]
  rfl

/-- Settles O17: a window read is `popWindow`, by the reader's role. -/
theorem reportWindowPopsWords : Obligations.ReportWindowPopsWords := by
  intro r first count s h formed
  have run : exec (.reportWindowRead r first count) s = .next (popWindow r first count s) :=
    congrArg Host.Outcome.next (readStep_window h)
  refine ⟨fun hr => ?supervisor, fun hr => ?other⟩
  case supervisor =>
    rw [run, popWindow_supervisor hr]
    rfl
  case other => rw [run, popWindow_foreign hr, windowBeats_nil]

end Sys2Proof.Machine
end

section
/-! PROOFS. Lots and wafer identity: the lot header (R25, R26), wafer entries (R28), the slot map (R29, R30), ID reads (R31, R32),
ID_OVERRIDE (R33) and LOT_CLOSE (R34, R36). Each owner's decision is said once, case by case; the obligations put it in the state
of the offer. -/

namespace Sys2Proof.Machine

/-! ## A row with its owner's decision -/

/-- A record refused by the owner of its kind, under any row (R9, R11). -/
theorem exec_refused {c : Instr} {slot : StagedSlot} {k : RecordKind} {b : WriteBurst} {s : State} {own : Owner} {o : PostOutcome}
    (h : Offers slot k b s) (hc : writeTarget c = some b) (ho : ownersOf slot k = some own) (hs : slot ≠ .mailbox)
    (hn : o ≠ .taken) (hd : own (recordWords slot b s) (offeredState slot b s) = (o, offeredState slot b s)) :
    exec c s = .next (refusedPost slot b o s) := by
  rw [exec_post hc hs h.1, stagedStep_refuse h ho hn hd]

/-- A record taken by an owner that leaves the Path Interface and the Focus Engine alone, under any row (R9, R11). -/
theorem exec_taken {c : Instr} {slot : StagedSlot} {k : RecordKind} {b : WriteBurst} {s : State} {own : Owner}
    {wt : WaferTracker} {rs : RevisitScheduler} {ru : ReportUnit} (h : Offers slot k b s) (hc : writeTarget c = some b)
    (ho : ownersOf slot k = some own) (hs : slot ≠ .mailbox)
    (hd : own (recordWords slot b s) (offeredState slot b s) =
      (.taken, { offeredState slot b s with wt := wt, rs := rs, ru := ru })) :
    exec c s = .next { takenPost slot b s with wt := wt, rs := rs, ru := ru } := by
  rw [exec_post hc hs h.1, stagedStep_take h ho hd]
  rfl

/-! ## Slot records -/

/-- Counting over a vector is counting over its indices. -/
theorem length_filter_toList {α : Type} {n : Nat} (v : Vector α n) (p : α → Bool) :
    (v.toList.filter p).length = ((List.finRange n).filter fun i => p v[i]).length := by
  have entries : v.toList = (List.finRange n).map fun i => v[i] := by
    apply List.ext_getElem <;> simp
  rw [entries, List.filter_map, List.length_map]
  rfl

/-- The characters of an identity stand eight in the first word and four in the second (R165, R168). -/
theorem charsOf_getElem (lo hi : Word) (i : Fin 12) :
    (charsOf lo hi)[i] = if i.val < 8 then byteAt lo i.val else byteAt hi (i.val - 8) := by
  simp [charsOf]

/-! ## The lot header (R25, R26) -/

/-- The ID check enable is defined at 0 and 1 (R167). -/
theorem switchOfCode_eq : ∀ n : Nat, switchOfCode n = if n ≤ 1 then some (decide (n = 1)) else none
  | 0 | 1 => rfl
  | n + 2 => by simp [switchOfCode]

theorem decideLotHeader_wrongState (w : Line) {s : State} (h : s.wt.lot ≠ .noLot) : decideLotHeader w s = (.wrongState, s) := by
  unfold decideLotHeader
  rw [if_pos h]
  rfl

theorem decideLotHeader_outOfRange {w : Line} {s : State} (h : s.wt.lot = .noLot) (hw : 1 < fld w[0] 44 4) :
    decideLotHeader w s = (.outOfRange, s) := by
  unfold decideLotHeader headerIdCheck
  rw [if_neg (not_not.2 h), switchOfCode_eq, if_neg (by omega)]
  rfl

theorem decideLotHeader_taken {w : Line} {s : State} (h : s.wt.lot = .noLot) (hw : fld w[0] 44 4 ≤ 1) :
    decideLotHeader w s =
      (.taken, { s with wt := openLot (decide (fld w[0] 44 4 = 1)) w s.wt, rs := { s.rs with defects := [] } }) := by
  unfold decideLotHeader headerIdCheck
  rw [if_neg (not_not.2 h), switchOfCode_eq, if_pos hw]
  rfl

/-- Settles O20: the header's owner decides by the lot state and the ID check enable, and `openLot` is every step of R26. -/
theorem lotHeaderOpensLot : Obligations.LotHeaderOpensLot := by
  intro b s h w
  refine ⟨fun hlot => ?wrongState, fun hlot hw => ?outOfRange, fun hlot hw => ?taken⟩
  case wrongState => exact exec_refused h rfl rfl (by decide) (by decide) (decideLotHeader_wrongState _ hlot)
  case outOfRange => exact exec_refused h rfl rfl (by decide) (by decide) (decideLotHeader_outOfRange hlot hw)
  case taken => exact exec_taken h rfl rfl (by decide) (decideLotHeader_taken hlot hw)

/-! ## Wafer entries (R28) -/

theorem untouched_iff (r : SlotRecord) : untouched r = true ↔ Untouched r := by
  simp [untouched, Untouched, and_assoc]

theorem decideWaferEntry_noList {c : CarrierSlot} (w : Line) {s : State} (h : s.wt.lot = .noLot ∨ s.wt.lot = .closing) :
    decideWaferEntry c w s = (.wrongState, s) := by
  unfold decideWaferEntry
  rw [if_pos h]
  rfl

theorem decideWaferEntry_outOfRange {c : CarrierSlot} {w : Line} {s : State} (h : s.wt.lot = .loading ∨ s.wt.lot = .opened)
    (hw : entrySlot w ≠ slotNumber c) : decideWaferEntry c w s = (.outOfRange, s) := by
  unfold decideWaferEntry
  rw [if_neg (by rcases h with h | h <;> simp [h]), if_pos hw]
  rfl

theorem decideWaferEntry_touched {c : CarrierSlot} {w : Line} {s : State} (h : s.wt.lot = .opened)
    (hw : entrySlot w = slotNumber c) (ht : ¬ Untouched (slotOf s.wt c)) : decideWaferEntry c w s = (.wrongState, s) := by
  unfold decideWaferEntry
  rw [← untouched_iff, Bool.not_eq_true] at ht
  rw [if_neg (by simp [h]), if_neg (not_not.2 hw), if_pos ⟨h, ht⟩]
  rfl

theorem decideWaferEntry_taken {c : CarrierSlot} {w : Line} {s : State}
    (h : s.wt.lot = .loading ∨ (s.wt.lot = .opened ∧ Untouched (slotOf s.wt c))) (hw : entrySlot w = slotNumber c) :
    decideWaferEntry c w s =
      (.taken, { s with wt := withSlot c { slotOf s.wt c with expectedId := some (entryId w) } s.wt }) := by
  unfold decideWaferEntry
  rw [← untouched_iff] at h
  have listed : ¬ (s.wt.lot = .noLot ∨ s.wt.lot = .closing) := by rcases h with h | h <;> simp [h]
  have free : ¬ (s.wt.lot = .opened ∧ untouched (slotOf s.wt c) = false) := by rcases h with h | h <;> simp [h]
  rw [if_neg listed, if_neg (not_not.2 hw), if_neg free]
  rfl

/-- Settles O22: the owner of the slot's own entries decides by the lot state, the slot number and the wafer's history. -/
theorem waferEntryDecided : Obligations.WaferEntryDecided := by
  intro n b s h w
  refine ⟨fun hlot => ?noList, fun hlot hw => ?outOfRange, fun hlot hw ht => ?touched, fun hlot hw => ?taken⟩
  case noList => exact exec_refused h rfl rfl (by simp) (by decide) (decideWaferEntry_noList _ hlot)
  case outOfRange => exact exec_refused h rfl rfl (by simp) (by decide) (decideWaferEntry_outOfRange hlot hw)
  case touched => exact exec_refused h rfl rfl (by simp) (by decide) (decideWaferEntry_touched hlot hw ht)
  case taken =>
    exact ⟨entryId w, charsOf_getElem _ _, exec_taken h rfl rfl (by simp) (decideWaferEntry_taken hlot hw)⟩

/-! ## The slot map (R29, R30) -/

/-- The condition code of a slot in a slot map (R168). -/
def conditionCode (w : Line) (c : CarrierSlot) : Nat :=
  if c.val < 16 then fld w[0] (4 * c.val) 4 else fld w[1] (4 * (c.val - 16)) 4

/-- The condition a defined code names (R167). -/
def namedCondition (n : Nat) : Condition :=
  if n = 1 then .empty else if n = 2 then .present else if n = 3 then .double else .crossed

/-- The condition codes 1 to 4 name conditions, the others none (R167). -/
theorem conditionOfCode_eq : ∀ n : Nat, conditionOfCode n = if 1 ≤ n ∧ n ≤ 4 then some (namedCondition n) else none
  | 0 | 1 | 2 | 3 | 4 => rfl
  | n + 5 => by simp [conditionOfCode]

theorem namedCondition_eq_present (n : Nat) : namedCondition n = .present ↔ n = 2 := by
  unfold namedCondition
  split_ifs <;> simp_all

/-- Every condition of a slot map is defined (R29). -/
abbrev MapDefined (w : Line) : Prop := ∀ c : CarrierSlot, 1 ≤ conditionCode w c ∧ conditionCode w c ≤ 4

theorem mapCondition_eq (w : Line) (c : CarrierSlot) : mapCondition w c = conditionOfCode (conditionCode w c) := rfl

theorem all_mapCondition_isSome (w : Line) : allSlots.all (fun c => (mapCondition w c).isSome) = true ↔ MapDefined w := by
  simp [allSlots, mapCondition_eq, conditionOfCode_eq, MapDefined]

/-- The conditions of a slot map whose codes are all defined (R30). -/
theorem mapConditions_getElem {w : Line} (h : MapDefined w) (c : CarrierSlot) :
    (mapConditions w)[c] = namedCondition (conditionCode w c) := by
  simp [mapConditions, mapCondition_eq, conditionOfCode_eq, h c]

theorem decideSlotMap_wrongState (w : Line) {s : State} (h : s.wt.lot ≠ .loading) : decideSlotMap w s = (.wrongState, s) := by
  unfold decideSlotMap
  rw [if_pos h]
  rfl

theorem decideSlotMap_outOfRange {w : Line} {s : State} (h : s.wt.lot = .loading) (hw : ¬ MapDefined w) :
    decideSlotMap w s = (.outOfRange, s) := by
  unfold decideSlotMap
  rw [if_neg (not_not.2 h), if_neg (mt (all_mapCondition_isSome w).1 hw)]
  rfl

theorem decideSlotMap_taken {w : Line} {s : State} (h : s.wt.lot = .loading) (hw : MapDefined w) :
    decideSlotMap w s = (.taken, { s with wt := applyMap (mapConditions w) s.wt }) := by
  unfold decideSlotMap
  rw [if_neg (not_not.2 h), if_pos ((all_mapCondition_isSome w).2 hw)]
  rfl

/-- The carrier a defined slot map opens, in its codes: the table of R30. -/
theorem applyMap_mapConditions {w : Line} (h : MapDefined w) (t : WaferTracker) :
    applyMap (mapConditions w) t =
      { t with
        lot := .opened
        slots := Vector.ofFn fun c =>
          { t.slots[c] with
            condition := namedCondition (conditionCode w c)
            location := if conditionCode w c = 2 then .inCarrier else .absent }
        tallies := { t.tallies with present := ((List.finRange 25).filter fun c => conditionCode w c = 2).length } } := by
  simp only [applyMap, mapSlot, length_filter_toList, beq_eq_decide, mapConditions_getElem h, namedCondition_eq_present]

/-- Settles O23: the map's owner decides by the lot state and by whether every code is defined. -/
theorem slotMapOpensTheCarrier : Obligations.SlotMapOpensTheCarrier := by
  intro b s h w code
  refine ⟨fun hlot => ?wrongState, fun hlot hbad => ?outOfRange, fun hlot hw => ?taken⟩
  case wrongState => exact exec_refused h rfl rfl (by decide) (by decide) (decideSlotMap_wrongState _ hlot)
  case outOfRange =>
    have undefined : ¬ MapDefined w := by
      obtain ⟨c, hc⟩ := hbad
      intro defined
      have inside : 1 ≤ code c ∧ code c ≤ 4 := defined c
      omega
    exact exec_refused h rfl rfl (by decide) (by decide) (decideSlotMap_outOfRange hlot undefined)
  case taken =>
    have decided := decideSlotMap_taken (s := offeredState .slotMap b s) hlot hw
    rw [applyMap_mapConditions hw] at decided
    exact exec_taken h rfl rfl (by decide) decided

/-! ## ID reads (R31, R32) -/

/-- The read status is defined at 1, READ_OK, and 2, READ_FAIL (R167). -/
theorem readOkOfCode_eq : ∀ n : Nat, readOkOfCode n = if n = 1 ∨ n = 2 then some (decide (n = 1)) else none
  | 0 | 1 | 2 => rfl
  | n + 3 => by simp [readOkOfCode]

theorem maskedEqual_iff (mask : BitVec 12) (v x : WaferId) :
    maskedEqual mask v x = true ↔ ∀ i : Fin 12, mask.getLsbD i.val = true → v[i] = x[i] := by
  simp [maskedEqual, imp_iff_not_or]

theorem decideIdRead_empty (w : Line) {s : State} (h : s.wt.aligner = none) : decideIdRead w s = (.wrongState, s) := by
  simp only [decideIdRead, h]
  rfl

theorem decideIdRead_outOfRange {w : Line} {s : State} {c : CarrierSlot} (h : s.wt.aligner = some c)
    (hw : ¬ (fld w[1] 32 8 = 1 ∨ fld w[1] 32 8 = 2)) : decideIdRead w s = (.outOfRange, s) := by
  simp only [decideIdRead, h, readStatus, readOkOfCode_eq, if_neg hw]
  rfl

theorem decideIdRead_taken {w : Line} {s : State} {c : CarrierSlot} (h : s.wt.aligner = some c)
    (hw : fld w[1] 32 8 = 1 ∨ fld w[1] 32 8 = 2) :
    decideIdRead w s = (.taken, applyIdRead c (decide (fld w[1] 32 8 = 1)) (readChars w) s) := by
  simp only [decideIdRead, h, readStatus, readOkOfCode_eq, if_pos hw]
  rfl

/-- The ID state an ID read with a defined status leaves (R31). -/
theorem idStateOf_eq {n : Nat} (hn : n = 1 ∨ n = 2) (mask : BitVec 12) (expected : Option WaferId) (v : WaferId) :
    idStateOf (decide (n = 1)) mask expected v =
      if n = 2 then .idUnread
      else match expected with
        | none => .idNoReference
        | some x => if ∀ i : Fin 12, mask.getLsbD i.val = true → v[i] = x[i] then .idOk else .idMismatch := by
  rcases hn with rfl | rfl
  · cases expected <;> simp only [idStateOf, maskedEqual_iff] <;> rfl
  · rfl

theorem applyIdRead_match {c : CarrierSlot} {ok : Bool} {v : WaferId} {s : State} {q : IdState}
    (hq : q = idStateOf ok s.wt.idMask (slotOf s.wt c).expectedId v) (h : q ≠ .idMismatch) :
    applyIdRead c ok v s = { s with wt := withSlot c { slotOf s.wt c with readId := some v, idState := q } s.wt } := by
  subst hq
  exact if_neg h

theorem applyIdRead_mismatch {c : CarrierSlot} {ok : Bool} {v : WaferId} {s : State} {q : IdState}
    (hq : q = idStateOf ok s.wt.idMask (slotOf s.wt c).expectedId v) (h : q = .idMismatch) :
    applyIdRead c ok v s =
      { s with
        wt :=
          { withSlot c { slotOf s.wt c with readId := some v, idState := q } s.wt with
            tallies := { s.wt.tallies with mismatches := min (s.wt.tallies.mismatches + 1) 65535 } }
        ru := raiseIn s.pi.setup.enable .idMismatch s.ru } := by
  subst hq
  exact if_pos h

/-- Settles O24: the read's owner decides by the aligner and the read status; the ID state it sets says whether a mismatch is
counted and raised. -/
theorem idReadSetsTheState : Obligations.IdReadSetsTheState := by
  intro b s h w
  refine ⟨fun hnone => ?empty, fun c hc => ⟨fun h1 h2 => ?outOfRange, fun hw => ?taken⟩⟩
  case empty => exact exec_refused h rfl rfl (by decide) (by decide) (decideIdRead_empty _ hnone)
  case outOfRange =>
    exact exec_refused h rfl rfl (by decide) (by decide) (decideIdRead_outOfRange (c := c) hc (not_or.2 ⟨h1, h2⟩))
  case taken =>
    have decided := decideIdRead_taken (s := offeredState .idRead b s) hc hw
    have state := idStateOf_eq hw s.wt.idMask (slotOf s.wt c).expectedId (readChars w)
    refine ⟨readChars w, charsOf_getElem _ _, _, rfl, fun hq => ?matching, fun hq => ?mismatch⟩
    case matching =>
      rw [applyIdRead_match (s := offeredState .idRead b s) state.symm hq] at decided
      exact exec_taken h rfl rfl (by decide) decided
    case mismatch =>
      rw [applyIdRead_mismatch (s := offeredState .idRead b s) state.symm hq] at decided
      exact exec_taken h rfl rfl (by decide) decided

/-! ## ID_OVERRIDE (R33) -/

theorem unconfirmed_iff (q : IdState) : unconfirmed q = true ↔ q = .idMismatch ∨ q = .idUnread ∨ q = .idNoReference := by
  simp [unconfirmed, or_assoc]

theorem slotOfNumber_outside {n : Nat} (h : n < 1 ∨ 25 < n) : slotOfNumber n = none := dif_neg (by omega)

theorem slotOfNumber_val_add_one (c : CarrierSlot) : slotOfNumber (c.val + 1) = some c := dif_pos (by omega)

/-- In OPEN and CLOSING the lot-state check of a control command passes. -/
theorem not_noLot_or_loading {l : LotState} (h : l = .opened ∨ l = .closing) : ¬ (l = .noLot ∨ l = .loading) := by
  rcases h with rfl | rfl <;> decide

theorem decideIdOverride_noCarrier (w : Line) {s : State} (h : s.wt.lot = .noLot ∨ s.wt.lot = .loading) :
    decideIdOverride w s = (.wrongState, s) := by
  unfold decideIdOverride
  rw [if_pos h]
  rfl

theorem decideIdOverride_outOfRange {w : Line} {s : State} (h : s.wt.lot = .opened ∨ s.wt.lot = .closing)
    (hw : overrideSlot w < 1 ∨ 25 < overrideSlot w) : decideIdOverride w s = (.outOfRange, s) := by
  simp only [decideIdOverride, if_neg (not_noLot_or_loading h), slotOfNumber_outside hw]
  rfl

theorem decideIdOverride_confirmed {w : Line} {s : State} {c : CarrierSlot} (h : s.wt.lot = .opened ∨ s.wt.lot = .closing)
    (hw : overrideSlot w = c.val + 1) (hq : ¬ unconfirmed (slotOf s.wt c).idState = true) :
    decideIdOverride w s = (.wrongState, s) := by
  simp only [decideIdOverride, if_neg (not_noLot_or_loading h), hw, slotOfNumber_val_add_one, if_neg hq]
  rfl

theorem decideIdOverride_taken {w : Line} {s : State} {c : CarrierSlot} (h : s.wt.lot = .opened ∨ s.wt.lot = .closing)
    (hw : overrideSlot w = c.val + 1) (hq : unconfirmed (slotOf s.wt c).idState = true) :
    decideIdOverride w s =
      (.taken, { s with wt := withSlot c { slotOf s.wt c with idState := .idOverridden } s.wt }) := by
  simp only [decideIdOverride, if_neg (not_noLot_or_loading h), hw, slotOfNumber_val_add_one, if_pos hq]
  rfl

/-- Settles O25: the owner decides by the lot state, the slot number and the ID state of the slot it names. -/
theorem idOverrideDecided : Obligations.IdOverrideDecided := by
  intro b s h n
  refine ⟨fun hlot => ?noCarrier, fun hlot hn => ?outOfRange,
    fun hlot c hn => ⟨fun h1 h2 h3 => ?confirmed, fun hq => ?taken⟩⟩
  case noCarrier => exact exec_refused h rfl rfl (by decide) (by decide) (decideIdOverride_noCarrier _ hlot)
  case outOfRange => exact exec_refused h rfl rfl (by decide) (by decide) (decideIdOverride_outOfRange hlot hn)
  case confirmed =>
    have known : ¬ unconfirmed (slotOf s.wt c).idState = true := by
      rw [unconfirmed_iff]
      exact fun hq => hq.elim h1 (·.elim h2 h3)
    exact exec_refused h rfl rfl (by decide) (by decide) (decideIdOverride_confirmed hlot hn known)
  case taken =>
    exact exec_taken h rfl rfl (by decide) (decideIdOverride_taken hlot hn ((unconfirmed_iff _).2 hq))

/-! ## LOT_CLOSE (R34, R36) -/

theorem atRest_iff (t : WaferTracker) : atRest t = true ↔ AtRest t := by
  have places : (t.slots.toList.all fun r => r.location == .absent || r.location == .inCarrier || r.location == .returned) = true
      ↔ ∀ c : CarrierSlot,
        (slotOf t c).location = .absent ∨ (slotOf t c).location = .inCarrier ∨ (slotOf t c).location = .returned := by
    simp [slotOf, Fin.forall_iff, or_assoc]
  simp only [atRest, Bool.and_eq_true, places, beq_iff_eq, AtRest, and_assoc]

theorem notVisitedCount_eq (t : WaferTracker) :
    notVisitedCount t =
      ((List.finRange 25).filter fun c => (slotOf t c).condition = .present ∧ (slotOf t c).visited = false).length := by
  rw [notVisitedCount, length_filter_toList]
  congr 2
  funext c
  rw [Bool.eq_iff_iff, decide_eq_true_iff]
  simp [slotOf]

/-- The close of a lot as one next state (R36, R157). -/
theorem closeLot_eq (s : State) :
    closeLot s =
      let tallies := { s.wt.tallies with
        notVisited := ((List.finRange 25).filter fun c =>
          (slotOf s.wt c).condition = .present ∧ (slotOf s.wt c).visited = false).length }
      { s with
        wt := { s.wt with lot := .noLot, tallies := tallies }
        ru := raiseIn s.pi.setup.enable .lotDone
          (storeIn s.pi.setup.enable s.pi.setup.threshold false
            (lotReport s.wt.lotNumber tallies s.ru.waferReportsLost) { s.ru with waferReportsLost := 0 }) } := by
  rw [← notVisitedCount_eq]
  rfl

theorem decideLotClose_noCarrier (w : Line) {s : State} (h : s.wt.lot = .noLot ∨ s.wt.lot = .loading) :
    decideLotClose w s = (.wrongState, s) := by
  unfold decideLotClose
  rw [if_pos h]
  rfl

theorem decideLotClose_unrest (w : Line) {s : State} (h : s.wt.lot = .opened ∨ s.wt.lot = .closing) (hr : ¬ AtRest s.wt) :
    decideLotClose w s = (.taken, { s with wt := { s.wt with lot := .closing } }) := by
  unfold decideLotClose
  rw [if_neg (not_noLot_or_loading h), if_neg (mt (atRest_iff _).1 hr)]
  rfl

theorem decideLotClose_rest (w : Line) {s : State} (h : s.wt.lot = .opened ∨ s.wt.lot = .closing) (hr : AtRest s.wt) :
    decideLotClose w s = (.taken, closeLot s) := by
  unfold decideLotClose
  rw [if_neg (not_noLot_or_loading h), if_pos ((atRest_iff _).2 hr)]
  rfl

/-- The four words of a lot report and their fields (R157, R170). -/
theorem lotReport_fields (n : BitVec 32) (t : LotTallies) (lost : Nat) :
    ∃ w0 w1 w2 w3, lotReport n t lost = [w0, w1, w2, w3]
      ∧ fld w0 0 8 = 2 ∧ fld w0 8 8 = 4 ∧ fld w0 32 32 = n.toNat
      ∧ fld w1 0 8 = t.present % 256 ∧ fld w1 8 8 = t.reviewed % 256 ∧ fld w1 16 8 = t.notVisited % 256
      ∧ fld w1 24 8 = lost % 256 ∧ fld w2 0 16 = t.faults % 65536 ∧ fld w3 0 16 = t.mismatches % 65536 := by
  have hn : n.toNat < 4294967296 := n.isLt
  refine ⟨_, _, _, _, rfl, ?_⟩
  simp [fld_or, fld_put_same, fld_put_apart, Nat.mod_eq_of_lt hn]

/-- Settles O26: the owner decides by the lot state and the test for rest; the report's fields are read back word by word. -/
theorem lotCloseDecided : Obligations.LotCloseDecided := by
  refine ⟨fun b s h => ⟨fun hlot => ?noCarrier, fun hlot hr => ?unrest, fun hlot hr => ?rest⟩, lotReport_fields⟩
  case noCarrier => exact exec_refused h rfl rfl (by decide) (by decide) (decideLotClose_noCarrier _ hlot)
  case unrest => exact exec_taken h rfl rfl (by decide) (decideLotClose_unrest _ hlot hr)
  case rest =>
    have decided := decideLotClose_rest (recordWords .control b s) (s := offeredState .control b s) hlot hr
    rw [closeLot_eq] at decided
    exact exec_taken h rfl rfl (by decide) decided

end Sys2Proof.Machine
end

section
/-! PROOFS. Wafer movement, the fault of a handler command: a FAULT completion and its handling note (R50, R158). -/

namespace Sys2Proof.Machine

/-! ## The Wafer Tracker after a fault (R50) -/

theorem modSlot_eq_withSlot (c : CarrierSlot) (f : SlotRecord → SlotRecord) (t : WaferTracker) :
    modSlot c f t = withSlot c (f (slotOf t c)) t := rfl

theorem emptyPlaces_eq (p : Place) (t : WaferTracker) :
    emptyPlaces p t =
      { t with
        robot := none
        aligner := if p = .aligner then none else t.aligner
        chamber := if p = .stage then none else t.chamber } := by
  cases p <;> rfl

/-- The Wafer Tracker after a FAULT as one update (R37, R50). -/
theorem faultWafer_eq (k : HeldCommand) (t : WaferTracker) :
    faultWafer k t =
      { withSlot k.wafer { slotOf t k.wafer with location := .unknown } t with
        robot := none
        aligner := if k.place = .aligner then none else t.aligner
        chamber := if k.place = .stage then none else t.chamber
        channel := .halted k.wafer k.verb k.place
        tallies := { t.tallies with faults := min (t.tallies.faults + 1) 65535 } } := by
  rw [faultWafer, emptyPlaces_eq, modSlot_eq_withSlot]
  rfl

/-! ## No lot closes on a fault (R35, R50) -/

theorem restTest_of_not_atRest {s : State} (h : ¬ AtRest s.wt) : restTest s = s :=
  if_neg fun hc => h ((atRest_iff _).1 hc.2)

/-- A lot is at rest only with the channel IDLE (R34). -/
theorem not_atRest_of_channel {t : WaferTracker} (h : t.channel ≠ .idle) : ¬ AtRest t := by
  rintro ⟨-, -, -, -, idle⟩
  exact h idle

theorem faultWafer_channel (k : HeldCommand) (t : WaferTracker) :
    (faultWafer k t).channel = .halted k.wafer k.verb k.place := rfl

/-- A FAULT completion: the tracker's fault, HANDLING_FAULT, then the note; the rest test changes nothing (R50, R158). -/
theorem completeFault_eq (k : HeldCommand) (fault : Nat) (s : State) :
    completeFault k fault s =
      { s with
        wt := faultWafer k s.wt
        ru := storeIn s.pi.setup.enable s.pi.setup.threshold false (handlingNote k.wafer k.verb k.place fault k.tag)
          (raiseIn s.pi.setup.enable .handlingFault s.ru) } := by
  have halted : (faultWafer k s.wt).channel ≠ .idle := by simp [faultWafer_channel]
  exact restTest_of_not_atRest (not_atRest_of_channel halted)

/-! ## The completion's owner at a FAULT (R48, R50) -/

/-- A completion names the command under way when its tag field is that command's tag (R48). -/
theorem completionTag_eq {w : Line} {tag : BitVec 8} (h : fld w[0] 0 8 = tag.toNat) : completionTag w = tag := by
  rw [completionTag, h, BitVec.ofNat_toNat, BitVec.setWidth_eq]

theorem decideCompletion_fault {w : Line} {s : State} {k : HeldCommand} (hk : s.wt.channel = .outstanding k)
    (htag : fld w[0] 0 8 = k.tag.toNat) (hout : fld w[0] 8 8 = 2) :
    decideCompletion w s = (.taken, completeFault k (fld w[0] 16 16) s) := by
  simp only [decideCompletion, hk, completionTag_eq htag, ne_eq, not_true_eq_false, if_false, completionDone, hout]
  rfl

/-! ## The handling note (R158, R170) -/

theorem Verb.code_lt (v : Verb) : v.code < 256 := by cases v <;> decide

theorem Place.code_lt (p : Place) : p.code < 256 := by cases p <;> decide

/-- The two words of a handling note and their fields (R158, R170). -/
theorem handlingNote_fields (c : CarrierSlot) (v : Verb) (p : Place) (fault : Nat) (tag : BitVec 8) :
    ∃ w0 w1, handlingNote c v p fault tag = [w0, w1]
      ∧ fld w0 0 8 = 3 ∧ fld w0 8 8 = 2 ∧ fld w0 16 8 = c.val + 1 ∧ fld w0 24 8 = v.code ∧ fld w0 32 8 = p.code
      ∧ fld w1 0 16 = fault % 65536 ∧ fld w1 16 8 = tag.toNat := by
  have hc : c.val + 1 < 256 := by omega
  have htag : tag.toNat < 256 := tag.isLt
  refine ⟨_, _, rfl, ?_⟩
  simp [fld_or, fld_put_same, fld_put_apart, Nat.mod_eq_of_lt hc, Nat.mod_eq_of_lt v.code_lt, Nat.mod_eq_of_lt p.code_lt,
    Nat.mod_eq_of_lt htag, slotNumber]

/-- Settles O32: the completion's owner takes the FAULT of the command under way, and the halted channel keeps the lot from
closing; the note's fields are read back word by word. -/
theorem faultHaltsTheChannel : Obligations.FaultHaltsTheChannel := by
  refine ⟨fun b s k h hk htag hout => ?fault, handlingNote_fields⟩
  have decided := decideCompletion_fault (s := offeredState .completion b s) hk htag hout
  rw [completeFault_eq, faultWafer_eq] at decided
  exact exec_taken h rfl rfl (by decide) decided

end Sys2Proof.Machine
end

section
/-! PROOFS. The recipe store and the end of a review: the focus recipe (R57, R58), the sampling recipe (R59), the geometry recipe
(R60) and END_WAFER (R65). A record is read once as a recipe with its ranges; the owner's decision follows from that. -/

namespace Sys2Proof.Machine

/-! ## A row whose owner stores in the recipe store -/

/-- A record taken by an owner that changes the recipe store alone, under any row (R9, R11, R56). -/
theorem exec_stored {c : Instr} {slot : StagedSlot} {k : RecordKind} {b : WriteBurst} {s : State} {own : Owner}
    {focus : Option FocusRecipe} {sampling : Option SamplingRecipe} {geometry : Option GeometryRecipe} (h : Offers slot k b s)
    (hc : writeTarget c = some b) (ho : ownersOf slot k = some own) (hs : slot ≠ .mailbox)
    (hd : own (recordWords slot b s) (offeredState slot b s) =
      (.taken, { offeredState slot b s with
        pi := { (offeredState slot b s).pi with
          focusRecipe := focus, samplingRecipe := sampling, geometryRecipe := geometry } })) :
    exec c s = .next
      { takenPost slot b s with
        pi := { (takenPost slot b s).pi with
          focusRecipe := focus, samplingRecipe := sampling, geometryRecipe := geometry } } := by
  rw [exec_post hc hs h.1, stagedStep_take h ho hd]
  rfl

/-! ## Fields and their ranges -/

theorem within_iff (a b v : Int) : within a b v = true ↔ a ≤ v ∧ v ≤ b := by simp [within]

/-- A signed field of 16 bits does not pass 32767 (R165). -/
theorem sfld_le (w : Word) (lo : Nat) : sfld w lo 16 ≤ 32767 := by
  have bound : fld w lo 16 < 65536 := fld_lt w lo 16
  simp only [sfld]
  split <;> omega

/-! ## The focus recipe (R57, R58) -/

/-- The focus recipe a focus record carries (R168). -/
def recordFocus (w : Line) : FocusRecipe :=
  { nominal := sfld w[0] 0 16, floor := sfld w[0] 16 16, ceiling := sfld w[0] 32 16, contrastFloor := fld w[0] 48 16
    wideN := fld w[1] 0 8, wideDz := fld w[1] 8 8, narrowN := fld w[1] 16 8, narrowDz := fld w[1] 24 8
    weightShift := fld w[1] 32 4, driftLimit := fld w[1] 36 4, carry := decide (fld w[1] 40 4 = 1)
    maxSweeps := fld w[1] 44 4, residualHigh := sfld w[2] 0 16, residualLow := sfld w[2] 16 16
    calX := sfld w[3] 0 32, calY := sfld w[3] 32 32 }

/-- Every field of a focus record lies in its range (R57). -/
abbrev FocusInRange (w : Line) : Prop :=
  -2048 ≤ sfld w[0] 0 16 ∧ sfld w[0] 0 16 ≤ 2047 ∧ -2048 ≤ sfld w[0] 16 16 ∧ sfld w[0] 16 16 ≤ 2047
    ∧ -2048 ≤ sfld w[0] 32 16 ∧ sfld w[0] 32 16 ≤ 2047
    ∧ 5 ≤ fld w[1] 0 8 ∧ fld w[1] 0 8 ≤ 12 ∧ 1 ≤ fld w[1] 8 8 ∧ fld w[1] 8 8 ≤ 255
    ∧ 3 ≤ fld w[1] 16 8 ∧ fld w[1] 16 8 ≤ 12 ∧ 1 ≤ fld w[1] 24 8 ∧ fld w[1] 24 8 ≤ 255
    ∧ 1 ≤ sfld w[2] 0 16 ∧ -32767 ≤ sfld w[2] 16 16 ∧ sfld w[2] 16 16 ≤ -1
    ∧ fld w[1] 32 4 ≤ 4 ∧ fld w[1] 36 4 ≠ 1 ∧ fld w[1] 40 4 ≤ 1 ∧ 1 ≤ fld w[1] 44 4 ∧ fld w[1] 44 4 ≤ 4
    ∧ -150000 ≤ sfld w[3] 0 32 ∧ sfld w[3] 0 32 ≤ 150000 ∧ -150000 ≤ sfld w[3] 32 32 ∧ sfld w[3] 32 32 ≤ 150000

/-- A focus recipe passes its cross-checks against a radius limit (R58). -/
abbrev FocusConsistent (limit : Int) (r : FocusRecipe) : Prop :=
  r.floor < r.ceiling ∧ r.floor ≤ r.nominal ∧ r.nominal ≤ r.ceiling ∧ r.narrowN ≤ r.wideN
    ∧ ((r.wideN : Int) - 1) * r.wideDz ≤ r.ceiling - r.floor ∧ ((r.narrowN : Int) - 1) * r.narrowDz ≤ r.ceiling - r.floor
    ∧ r.calX * r.calX + r.calY * r.calY ≤ limit * limit

/-- The range checks on what a focus record carries, beside its carry code: the residual ceiling and the drift limit cannot pass
their upper bounds. -/
theorem focusInRange_iff (w : Line) : FocusInRange w ↔ fld w[1] 40 4 ≤ 1 ∧ focusRangesOk (recordFocus w) = true := by
  have residual := sfld_le w[2] 0
  have drift : fld w[1] 36 4 < 16 := fld_lt w[1] 36 4
  simp only [focusRangesOk, recordFocus, within_iff, Bool.and_eq_true, Bool.or_eq_true, beq_iff_eq]
  omega

theorem focusRecipeOf_eq (w : Line) : focusRecipeOf w = if FocusInRange w then some (recordFocus w) else none := by
  simp only [focusInRange_iff]
  by_cases hc : fld w[1] 40 4 ≤ 1
  · simp only [focusRecipeOf, switchOfCode_eq, hc, if_true, Option.bind_some, true_and]
    rfl
  · simp [focusRecipeOf, switchOfCode_eq, hc]

theorem focusCrossOk_iff (limit : Int) (r : FocusRecipe) : focusCrossOk limit r = true ↔ FocusConsistent limit r := by
  simp only [focusCrossOk, siteInside, within_iff, Bool.and_eq_true, decide_eq_true_eq, and_assoc]

theorem decideFocusRecipe_outOfRange {w : Line} {s : State}
    (h : ¬ (FocusInRange w ∧ FocusConsistent (radiusInForce s.pi) (recordFocus w))) :
    decideFocusRecipe w s = (.outOfRange, s) := by
  unfold decideFocusRecipe
  rw [focusRecipeOf_eq]
  by_cases ranges : FocusInRange w
  · have inconsistent : ¬ focusCrossOk (radiusInForce s.pi) (recordFocus w) = true :=
      fun hok => h ⟨ranges, (focusCrossOk_iff _ _).1 hok⟩
    rw [if_pos ranges]
    exact if_neg inconsistent
  · rw [if_neg ranges]
    rfl

theorem decideFocusRecipe_taken {w : Line} {s : State} (ranges : FocusInRange w)
    (consistent : FocusConsistent (radiusInForce s.pi) (recordFocus w)) :
    decideFocusRecipe w s = (.taken, { s with pi := { s.pi with focusRecipe := some (recordFocus w) } }) := by
  unfold decideFocusRecipe
  rw [focusRecipeOf_eq, if_pos ranges]
  exact if_pos ((focusCrossOk_iff _ _).2 consistent)

/-- Settles O34: the owner decides by the ranges of R57 and the cross-checks of R58, the radius limit read in the state of the
offer. -/
theorem focusRecipeDecided : Obligations.FocusRecipeDecided := by
  intro b s h
  refine ⟨fun hbad => ?outOfRange, fun hgood => ?taken⟩
  case outOfRange => exact exec_refused h rfl rfl (by decide) (by decide) (decideFocusRecipe_outOfRange hbad)
  case taken => exact exec_stored h rfl rfl (by decide) (decideFocusRecipe_taken hgood.1 hgood.2)

/-! ## The sampling recipe (R59) -/

/-- The logic a defined code names (R167). -/
def namedLogic (n : Nat) : FilterLogic := if n = 0 then .or else if n = 1 then .and else if n = 2 then .nor else .nand

/-- The logic codes 0 to 3 name logics, the others none (R167). -/
theorem logicOfCode_eq : ∀ n : Nat, logicOfCode n = if n ≤ 3 then some (namedLogic n) else none
  | 0 | 1 | 2 | 3 => rfl
  | n + 4 => by simp [logicOfCode]

/-- The step codes 1 to 3 name focus steps, the others none (R167). -/
theorem isSome_stepOfCode : ∀ n : Nat, (stepOfCode n).isSome = true ↔ 1 ≤ n ∧ n ≤ 3
  | 0 | 1 | 2 | 3 => by simp [stepOfCode]
  | n + 4 => by simp [stepOfCode]

/-- The sampling recipe a sampling record carries (R168). -/
def recordSampling (w : Line) : SamplingRecipe :=
  { filter1 := { enable := decide (fld w[0] 0 4 = 1), pattern := nibblesOf w[1] 0, mask := nibblesOf w[1] 16 }
    filter2 := { enable := decide (fld w[0] 4 4 = 1), pattern := nibblesOf w[1] 32, mask := nibblesOf w[1] 48 }
    logic := namedLogic (fld w[0] 8 4), cap := fld w[0] 16 16, cadenceLength := fld w[0] 32 8
    cadence := Vector.ofFn fun j => BitVec.ofNat 4 (fld w[2] (4 * j.val) 4) }

/-- The codes of a sampling record are defined and its cap and cadence length lie in their ranges (R59). -/
abbrev SamplingInRange (w : Line) : Prop :=
  fld w[0] 0 4 ≤ 1 ∧ fld w[0] 4 4 ≤ 1 ∧ fld w[0] 8 4 ≤ 3 ∧ 1 ≤ fld w[0] 16 16 ∧ fld w[0] 16 16 ≤ 508
    ∧ 1 ≤ fld w[0] 32 8 ∧ fld w[0] 32 8 ≤ 16
    ∧ ∀ j, j < fld w[0] 32 8 → 1 ≤ fld w[2] (4 * j) 4 ∧ fld w[2] (4 * j) 4 ≤ 3

/-- A sampling record is read as a recipe exactly when it lies in its ranges; entries from the length on are not looked at (R59). -/
theorem samplingRecipeOf_eq (w : Line) : samplingRecipeOf w = if SamplingInRange w then some (recordSampling w) else none := by
  have steps : ((List.range (fld w[0] 32 8)).all fun j => (stepOfCode (fld w[2] (4 * j) 4)).isSome) = true
      ↔ ∀ j, j < fld w[0] 32 8 → 1 ≤ fld w[2] (4 * j) 4 ∧ fld w[2] (4 * j) 4 ≤ 3 := by
    simp [isSome_stepOfCode]
  by_cases codes : fld w[0] 0 4 ≤ 1 ∧ fld w[0] 4 4 ≤ 1 ∧ fld w[0] 8 4 ≤ 3
  · obtain ⟨enable1, enable2, logic⟩ := codes
    simp only [samplingRecipeOf, switchOfCode_eq, logicOfCode_eq, enable1, enable2, logic, if_true, Option.bind_some,
      Bool.and_eq_true, within_iff, steps, SamplingInRange, true_and, and_assoc]
    norm_cast
  · have undefined : ¬ SamplingInRange w := fun hw => codes ⟨hw.1, hw.2.1, hw.2.2.1⟩
    rw [if_neg undefined]
    simp only [samplingRecipeOf, switchOfCode_eq, logicOfCode_eq]
    split_ifs with enable1 enable2 logic
    · exact absurd ⟨enable1, enable2, logic⟩ codes
    all_goals rfl

theorem decideSamplingRecipe_outOfRange {w : Line} {s : State} (h : ¬ SamplingInRange w) :
    decideSamplingRecipe w s = (.outOfRange, s) := by
  unfold decideSamplingRecipe
  rw [samplingRecipeOf_eq, if_neg h]
  rfl

theorem decideSamplingRecipe_taken {w : Line} {s : State} (h : SamplingInRange w) :
    decideSamplingRecipe w s = (.taken, { s with pi := { s.pi with samplingRecipe := some (recordSampling w) } }) := by
  unfold decideSamplingRecipe
  rw [samplingRecipeOf_eq, if_pos h]
  rfl

/-- Settles O35: the owner decides by the codes and ranges of R59 alone. -/
theorem samplingRecipeDecided : Obligations.SamplingRecipeDecided := by
  intro b s h
  refine ⟨fun hbad => ?outOfRange, fun hgood => ?taken⟩
  case outOfRange => exact exec_refused h rfl rfl (by decide) (by decide) (decideSamplingRecipe_outOfRange hbad)
  case taken => exact exec_stored h rfl rfl (by decide) (decideSamplingRecipe_taken hgood)

/-! ## The geometry recipe (R60) -/

/-- The focus offset of a mode in a geometry record: four in word 3, two in word 4 (R168). -/
def recordOffset (w : Line) (i : Fin 6) : Int :=
  if i.val < 4 then sfld w[3] (16 * i.val) 16 else sfld w[4] (16 * (i.val - 4)) 16

/-- The geometry recipe a geometry record carries (R168). -/
def recordGeometry (w : Line) : GeometryRecipe :=
  { pitchX := fld w[0] 0 32, pitchY := fld w[0] 32 32, originX := sfld w[1] 0 32, originY := sfld w[1] 32 32
    radius := fld w[2] 0 32, tolerance := fld w[2] 32 16, modes := BitVec.ofNat 6 (fld w[2] 48 6)
    offsets := Vector.ofFn (recordOffset w) }

/-- Every field of a geometry record lies in its range and its mode set is not empty (R60). -/
abbrev GeometryInRange (w : Line) : Prop :=
  1000 ≤ fld w[0] 0 32 ∧ fld w[0] 0 32 ≤ 40000 ∧ 1000 ≤ fld w[0] 32 32 ∧ fld w[0] 32 32 ≤ 40000
    ∧ -150000 ≤ sfld w[1] 0 32 ∧ sfld w[1] 0 32 ≤ 150000 ∧ -150000 ≤ sfld w[1] 32 32 ∧ sfld w[1] 32 32 ≤ 150000
    ∧ 100000 ≤ fld w[2] 0 32 ∧ fld w[2] 0 32 ≤ 150000 ∧ 1 ≤ fld w[2] 32 16 ∧ fld w[2] 32 16 ≤ 1000
    ∧ fld w[2] 48 6 ≠ 0 ∧ ∀ i, -2000 ≤ recordOffset w i ∧ recordOffset w i ≤ 2000

/-- The calibration site of the stored focus recipe, when there is one, lies inside a radius limit (R60). -/
abbrev CalibrationInside (p : PathInterface) (radius : Int) : Prop :=
  ∀ f, p.focusRecipe = some f → f.calX * f.calX + f.calY * f.calY ≤ radius * radius

/-- A set read from a field of its own width is empty exactly when the field is zero. -/
theorem ofNat_fld_ne_zero (w : Word) (lo n : Nat) : BitVec.ofNat n (fld w lo n) ≠ 0 ↔ fld w lo n ≠ 0 := by
  rw [ne_eq, ← BitVec.toNat_inj, BitVec.toNat_ofNat, Nat.mod_eq_of_lt (fld_lt w lo n)]
  simp

theorem geometryInRange_iff (w : Line) : GeometryInRange w ↔ geometryRangesOk (recordGeometry w) = true := by
  have offsets : ((Vector.ofFn (recordOffset w)).toList.all (within (-2000) 2000)) = true
      ↔ ∀ i, -2000 ≤ recordOffset w i ∧ recordOffset w i ≤ 2000 := by
    simp [within_iff, Fin.forall_iff]
  simp only [geometryRangesOk, recordGeometry, Bool.and_eq_true, offsets, within_iff, bne_iff_ne, ofNat_fld_ne_zero, and_assoc]
  norm_cast

theorem geometryRecipeOf_eq (w : Line) : geometryRecipeOf w = if GeometryInRange w then some (recordGeometry w) else none := by
  simp only [geometryInRange_iff]
  rfl

theorem geometryCrossOk_iff (p : PathInterface) (r : GeometryRecipe) :
    geometryCrossOk p r = true ↔ CalibrationInside p r.radius := by
  unfold geometryCrossOk CalibrationInside
  cases p.focusRecipe <;> simp [siteInside]

theorem decideGeometryRecipe_outOfRange {w : Line} {s : State}
    (h : ¬ (GeometryInRange w ∧ CalibrationInside s.pi (recordGeometry w).radius)) :
    decideGeometryRecipe w s = (.outOfRange, s) := by
  unfold decideGeometryRecipe
  rw [geometryRecipeOf_eq]
  by_cases ranges : GeometryInRange w
  · have outside : ¬ geometryCrossOk s.pi (recordGeometry w) = true := fun hok => h ⟨ranges, (geometryCrossOk_iff _ _).1 hok⟩
    rw [if_pos ranges]
    exact if_neg outside
  · rw [if_neg ranges]
    rfl

theorem decideGeometryRecipe_taken {w : Line} {s : State} (ranges : GeometryInRange w)
    (inside : CalibrationInside s.pi (recordGeometry w).radius) :
    decideGeometryRecipe w s = (.taken, { s with pi := { s.pi with geometryRecipe := some (recordGeometry w) } }) := by
  unfold decideGeometryRecipe
  rw [geometryRecipeOf_eq, if_pos ranges]
  exact if_pos ((geometryCrossOk_iff _ _).2 inside)

/-- Settles O36: the owner decides by the ranges of R60 and by the focus recipe that stands in the store. -/
theorem geometryRecipeDecided : Obligations.GeometryRecipeDecided := by
  intro b s h w offset good
  have judged : good ↔ GeometryInRange w ∧ CalibrationInside s.pi (recordGeometry w).radius := by
    simp only [GeometryInRange, and_assoc]
    rfl
  refine ⟨fun hbad => ?outOfRange, fun hgood => ?taken⟩
  case outOfRange =>
    exact exec_refused h rfl rfl (by decide) (by decide) (decideGeometryRecipe_outOfRange (mt judged.2 hbad))
  case taken =>
    obtain ⟨ranges, inside⟩ := judged.1 hgood
    exact exec_stored h rfl rfl (by decide) (decideGeometryRecipe_taken (s := offeredState .geometryRecipe b s) ranges inside)

/-! ## The entry at the site -/

/-- At most one entry of a revisit table is in a site state (R77). -/
abbrev OneSite (table : Sparse RevisitEntry) : Prop :=
  ∀ p ∈ table, ∀ q ∈ table, isSite p.2.state = true → isSite q.2.state = true → p = q

/-- With one site at most, an entry in a site state is the site entry. -/
theorem siteEntry_eq_some {r : RevisitScheduler} (one : OneSite r.table) {p : Nat × RevisitEntry} (hp : p ∈ r.table)
    (site : isSite p.2.state = true) : siteEntry r = some p := by
  cases found : siteEntry r with
  | none => exact absurd site (List.find?_eq_none.1 found p hp)
  | some q =>
    have hq : isSite q.2.state = true := List.find?_some (p := fun q : Nat × RevisitEntry => isSite q.2.state) found
    rw [one q (List.mem_of_find?_eq_some found) p hp hq site]

/-- A change of entries that brings none to the site keeps one site at most. -/
theorem oneSite_mapValues {table : Sparse RevisitEntry} {f : RevisitEntry → RevisitEntry} (one : OneSite table)
    (hf : ∀ e, isSite (f e).state = true → isSite e.state = true) : OneSite (Sparse.mapValues f table) := by
  intro p' hp' q' hq' sp sq
  obtain ⟨p, hp, rfl⟩ := List.mem_map.1 hp'
  obtain ⟨q, hq, rfl⟩ := List.mem_map.1 hq'
  rw [one p hp q hq (hf _ sp) (hf _ sq)]

/-! ## Changing entries of a store -/

theorem Sparse.mapValues_cons {α : Type} (f : α → α) (i : Nat) (a : α) (m : Sparse α) :
    Sparse.mapValues f ((i, a) :: m) = (i, f a) :: Sparse.mapValues f m := rfl

/-- A change that leaves every entry as it is leaves the store as it is. -/
theorem Sparse.mapValues_eq_self {α : Type} {m : Sparse α} {f : α → α} (h : ∀ p ∈ m, f p.2 = p.2) :
    Sparse.mapValues f m = m := by
  have same : Sparse.mapValues f m = m.map id := List.map_congr_left fun p hp => Prod.ext rfl (h p hp)
  rw [same, List.map_id]

/-- A change of one entry alone is a write at its index. -/
theorem Sparse.insert_eq_mapValues {α : Type} {m : Sparse α} {f : α → α} {i : Nat} {a : α} (hr : Sparse.Rising m)
    (hi : (i, a) ∈ m) (h : ∀ p ∈ m, p.1 ≠ i → f p.2 = p.2) : Sparse.insert m i (f a) = Sparse.mapValues f m := by
  induction m with
  | nil => simp at hi
  | cons q m ih =>
    obtain ⟨j, b⟩ := q
    have above : ∀ p ∈ m, j < p.1 := Sparse.rising_head hr
    rw [Sparse.mapValues_cons, Sparse.insert]
    rcases List.mem_cons.1 hi with here | later
    · obtain ⟨rfl, rfl⟩ := Prod.mk.inj here
      have rest : Sparse.mapValues f m = m :=
        Sparse.mapValues_eq_self fun p hp => h p (List.mem_cons_of_mem _ hp) (above p hp).ne'
      simp [rest]
    · have hj : j < i := above _ later
      have first : f b = b := h (j, b) List.mem_cons_self hj.ne
      rw [if_neg hj.asymm, if_neg hj.ne', first,
        ih (Sparse.rising_tail hr) later fun p hp => h p (List.mem_cons_of_mem _ hp)]

/-! ## END_WAFER (R65) -/

/-- An entry after the lists are emptied: a QUEUED one is NOT_REVIEWED (R65). -/
def unqueued (e : RevisitEntry) : RevisitEntry := if e.state = .queued then { e with state := .notReviewed } else e

/-- An entry after recalls are withdrawn: a RECALLING one is DISPATCHED again (R65). -/
def withdrawn (e : RevisitEntry) : RevisitEntry := if e.state = .recalling then { e with state := .dispatched } else e

theorem withdrawn_of_ne {e : RevisitEntry} (h : e.state ≠ .recalling) : withdrawn e = e := if_neg h

theorem isSite_of_unqueued {e : RevisitEntry} (h : isSite (unqueued e).state = true) : isSite e.state = true := by
  unfold unqueued at h
  split at h
  · exact absurd h (by simp [isSite])
  · exact h

/-- Both changes of an END_WAFER at once. -/
theorem withdrawn_unqueued (e : RevisitEntry) :
    withdrawn (unqueued e) =
      { e with
        state := if e.state = .queued then .notReviewed else if e.state = .recalling then .dispatched else e.state } := by
  unfold withdrawn unqueued
  split_ifs <;> simp_all

theorem dropQueued_eq (r : RevisitScheduler) :
    dropQueued r =
      { r with
        table := Sparse.mapValues unqueued r.table, queue := [], lane := []
        session := { r.session with tallies := { r.session.tallies with
          notReviewed := r.session.tallies.notReviewed
            + (r.table.filter fun p => p.2.state = .queued ∧ p.2.kind ≠ .calibration).length } } } := by
  simp only [dropQueued, modTallies, bne, beq_eq_decide, ne_eq, Bool.decide_and, decide_not]
  rfl

/-- With one site at most, withdrawing the site entry's recall withdraws every recall of the table. -/
theorem withdrawRecall_eq {r : RevisitScheduler} (hr : Sparse.Rising r.table) (one : OneSite r.table) :
    withdrawRecall r = { r with table := Sparse.mapValues withdrawn r.table } := by
  have only : ∀ p ∈ r.table, p.2.state = .recalling → siteEntry r = some p :=
    fun p hp recalling => siteEntry_eq_some one hp (by rw [recalling]; rfl)
  by_cases withdrawal : ∃ p ∈ r.table, p.2.state = .recalling
  · obtain ⟨⟨tag, e⟩, he, recalling⟩ := withdrawal
    have others : ∀ p ∈ r.table, p.1 ≠ tag → withdrawn p.2 = p.2 := fun p hp hne =>
      withdrawn_of_ne fun hp' => hne (by rw [Option.some.inj ((only p hp hp').symm.trans (only _ he recalling))])
    have stored : Sparse.lookup r.table tag = some e := (Sparse.lookup_iff_mem hr tag e).2 he
    have left : withdrawn e = { e with state := .dispatched } := if_pos recalling
    simp only [withdrawRecall, only _ he recalling, if_pos recalling, modEntry, stored]
    rw [← Sparse.insert_eq_mapValues hr he others, left]
  · have none_recalling : ∀ p ∈ r.table, p.2.state ≠ .recalling := fun p hp h => withdrawal ⟨p, hp, h⟩
    rw [Sparse.mapValues_eq_self fun p hp => withdrawn_of_ne (none_recalling p hp)]
    cases found : siteEntry r with
    | none => simp only [withdrawRecall, found]
    | some p => simp only [withdrawRecall, found, if_neg (none_recalling p (List.mem_of_find?_eq_some found))]

/-- The Revisit Scheduler after an END_WAFER taken (R65). -/
theorem endReview_eq {r : RevisitScheduler} (hr : Sparse.Rising r.table) (one : OneSite r.table) :
    endReview r =
      { r with
        table := r.table.map fun p => (p.1, { p.2 with
          state := if p.2.state = .queued then .notReviewed else if p.2.state = .recalling then .dispatched else p.2.state })
        queue := [], lane := []
        session := { r.session with
          state := .ending
          tallies := { r.session.tallies with
            notReviewed := r.session.tallies.notReviewed
              + (r.table.filter fun p => p.2.state = .queued ∧ p.2.kind ≠ .calibration).length } } } := by
  have rising : Sparse.Rising (Sparse.mapValues unqueued r.table) := by rwa [Sparse.Rising, Sparse.keys, Sparse.keys_mapValues]
  have oneLeft : OneSite (Sparse.mapValues unqueued r.table) := oneSite_mapValues one fun _ => isSite_of_unqueued
  have both : Sparse.mapValues withdrawn (Sparse.mapValues unqueued r.table) =
      r.table.map fun p => (p.1, withdrawn (unqueued p.2)) := by
    simp [Sparse.mapValues, Function.comp_def]
  simp only [endReview, dropQueued_eq]
  rw [withdrawRecall_eq rising oneLeft]
  simp only [both, withdrawn_unqueued]

theorem decideEndWafer_refused (w : Line) {s : State} (h : ¬ (s.rs.session.state = .aligning ∨ s.rs.session.state = .active)) :
    decideEndWafer w s = (.wrongState, s) := if_neg h

theorem decideEndWafer_taken (w : Line) {s : State} (h : s.rs.session.state = .aligning ∨ s.rs.session.state = .active) :
    decideEndWafer w s = (.taken, { s with rs := endReview s.rs }) := if_pos h

/-- Settles O38: the owner decides by the session state; in the canonical table the recall withdrawn is the only one. -/
theorem endWaferDecided : Obligations.EndWaferDecided := by
  intro b s h q
  refine ⟨fun aligning active => ?refused, fun running hsite => ?taken⟩
  case refused =>
    exact exec_refused h rfl rfl (by decide) (by decide) (decideEndWafer_refused _ (not_or.2 ⟨aligning, active⟩))
  case taken =>
    obtain ⟨rising, one, -⟩ := hsite
    have decided := decideEndWafer_taken (recordWords .control b s) (s := offeredState .control b s) running
    rw [endReview_eq (r := (offeredState .control b s).rs) rising one] at decided
    exact exec_taken h rfl rfl (by decide) decided

end Sys2Proof.Machine
end

section
/-! PROOFS. Defect selection and the revisit queues: the sampling filters and their verdict (R74, R75), defect entries (R72, R73),
and URGENT with the recall at a join (R78, R81 to R83, R105). -/

namespace Sys2Proof.Machine

/-! ## The sampling filters (R74, R75) -/

/-- A bit of a nibble's test: the value and the pattern differ there, and the mask has the bit (R74). -/
theorem nibbleTest_getLsbD (value pattern mask : BitVec 4) (i : Nat) :
    (nibbleTest value pattern mask).getLsbD i = ((value.getLsbD i ^^ pattern.getLsbD i) && mask.getLsbD i) := by
  simp [nibbleTest]

/-- A nibble's test is zero when value and pattern agree on every bit of the mask (R74). -/
theorem nibbleTest_eq_zero_iff (value pattern mask : BitVec 4) :
    nibbleTest value pattern mask = 0 ↔ ∀ i, i < 4 → mask.getLsbD i = true → value.getLsbD i = pattern.getLsbD i := by
  have agree : ∀ i, (nibbleTest value pattern mask).getLsbD i = false
      ↔ (mask.getLsbD i = true → value.getLsbD i = pattern.getLsbD i) := by
    intro i
    rw [nibbleTest_getLsbD]
    cases mask.getLsbD i <;> simp
  constructor
  · intro zero i _
    exact (agree i).1 (by simp [zero])
  · intro h
    refine BitVec.eq_of_getLsbD_eq fun i hi => ?_
    rw [(agree i).2 (h i hi)]
    simp

theorem filterMatches_iff (f : SamplingFilter) (a : Nibbles) :
    filterMatches f a = true ↔
      nibbleTest a.cls f.pattern.cls f.mask.cls = 0 ∧ nibbleTest a.size f.pattern.size f.mask.size = 0
        ∧ nibbleTest a.region f.pattern.region f.mask.region = 0 ∧ nibbleTest a.pass f.pattern.pass f.mask.pass = 0 := by
  simp only [filterMatches, Bool.and_eq_true, beq_iff_eq, and_assoc]

/-- A disabled filter's result is TRUE, an enabled one's its match (R75). -/
theorem filterResult_iff (f : SamplingFilter) (a : Nibbles) :
    filterResult f a = true ↔ (f.enable = true → filterMatches f a = true) := by
  cases h : f.enable <;> simp [filterResult, h]

theorem combine_iff (l : FilterLogic) (x y : Bool) :
    combine l x y = true ↔
      (l = .or ∧ (x = true ∨ y = true)) ∨ (l = .and ∧ x = true ∧ y = true) ∨ (l = .nor ∧ ¬ x = true ∧ ¬ y = true)
        ∨ (l = .nand ∧ (¬ x = true ∨ ¬ y = true)) := by
  cases l with
  | or => simp [combine]
  | and => simp [combine]
  | nor => simp [combine]
  | nand => cases x <;> simp [combine]

theorem verdict_of_disabled {m : SamplingRecipe} (h1 : m.filter1.enable = false) (h2 : m.filter2.enable = false) (a : Nibbles) :
    verdict m a = true := by
  simp [verdict, h1, h2]

theorem verdict_of_enabled {m : SamplingRecipe} (h : m.filter1.enable = true ∨ m.filter2.enable = true) (a : Nibbles) :
    verdict m a = combine m.logic (filterResult m.filter1 a) (filterResult m.filter2 a) := by
  rcases h with h | h <;> simp [verdict, h]

/-- Settles O42: a filter matches nibble by nibble, each by the bits of its test; the verdict combines two results as the logic
says. -/
theorem filterVerdict : Obligations.FilterVerdict := by
  refine ⟨?test, ?verdict⟩
  case test =>
    intro f a
    simp only [filterMatches_iff, nibbleTest_eq_zero_iff, imp_and, forall_and]
  case verdict =>
    intro m a x y
    refine ⟨fun off1 off2 => verdict_of_disabled off1 off2 a, fun enabled => ?_⟩
    rw [verdict_of_enabled enabled, combine_iff, filterResult_iff, filterResult_iff]

/-! ## A bulk row with its owner's decision -/

/-- A line refused by the owner of its bulk slot, under any row (R11, R12). -/
theorem exec_lineRefused {c : Instr} {slot : BulkSlot} {b : WriteBurst} {s : State} {o : PostOutcome} (h : FullClaim slot b s)
    (hc : writeTarget c = some b) (hn : o ≠ .taken)
    (hd : bulkOwner slot (claimWords slot b s) (claimedState b s) = (o, claimedState b s)) :
    exec c s = .next (refusedClaim slot b o s) := by
  rw [exec_claim hc h.1, bulkStep_refuse h hn hd]

/-- A line taken by an owner that changes the Revisit Scheduler alone, under any row (R11, R12). -/
theorem exec_lineTaken {c : Instr} {slot : BulkSlot} {b : WriteBurst} {s : State} {rs : RevisitScheduler} (h : FullClaim slot b s)
    (hc : writeTarget c = some b)
    (hd : bulkOwner slot (claimWords slot b s) (claimedState b s) = (.taken, { claimedState b s with rs := rs })) :
    exec c s = .next { takenClaim slot b s with rs := rs } := by
  rw [exec_claim hc h.1, bulkStep_take h hd]
  rfl

/-! ## Defect entries (R72, R73) -/

theorem inRange_iff (t : WaferTracker) (c : CarrierSlot) (i : Nat) :
    inRange t c i = true ↔ rangeStart t c ≤ i ∧ i < rangeEnd t c := by
  simp [inRange]

/-- An index is locked when it lies in the range of a slot that locks its range (R72). -/
theorem indexLocked_iff (t : WaferTracker) (i : Nat) :
    indexLocked t i = true ↔ ∃ c : CarrierSlot, rangeStart t c ≤ i ∧ i < rangeEnd t c
      ∧ ((slotOf t c).location = .inChamber ∨ (slotOf t c).visited = true) := by
  simp [indexLocked, allSlots, inRange_iff, locksRange, and_assoc]

theorem dieOk_iff (d : DefectEntry) : dieOk d = true ↔ -16 ≤ d.column ∧ d.column ≤ 15 ∧ -16 ≤ d.row ∧ d.row ≤ 15 := by
  simp [dieOk, and_assoc]

section
variable {i : Fin 4096} {w : Line} {s : State}

/-- The lot's defect list may be written: the lot is LOADING or OPENED (R72). -/
theorem not_noLot_or_closing (h : s.wt.lot = .loading ∨ s.wt.lot = .opened) : ¬ (s.wt.lot = .noLot ∨ s.wt.lot = .closing) := by
  rcases h with h | h <;> simp [h]

theorem decideDefectEntry_wrongState (h : ¬ (s.wt.lot = .loading ∨ s.wt.lot = .opened)) :
    decideDefectEntry i w s = (.wrongState, s) := by
  have noList : s.wt.lot = .noLot ∨ s.wt.lot = .closing := by
    cases hl : s.wt.lot <;> simp [hl] at h ⊢
  exact if_pos noList

theorem decideDefectEntry_listLocked (h : s.wt.lot = .loading ∨ s.wt.lot = .opened) (locked : indexLocked s.wt i.val = true) :
    decideDefectEntry i w s = (.listLocked, s) := by
  unfold decideDefectEntry
  rw [if_neg (not_noLot_or_closing h), if_pos locked]
  rfl

theorem decideDefectEntry_outOfRange (h : s.wt.lot = .loading ∨ s.wt.lot = .opened) (free : ¬ indexLocked s.wt i.val = true)
    (outside : ¬ dieOk (defectOf w) = true) : decideDefectEntry i w s = (.outOfRange, s) := by
  unfold decideDefectEntry
  rw [if_neg (not_noLot_or_closing h), if_neg free, if_neg outside]
  rfl

theorem decideDefectEntry_taken (h : s.wt.lot = .loading ∨ s.wt.lot = .opened) (free : ¬ indexLocked s.wt i.val = true)
    (inside : dieOk (defectOf w) = true) :
    decideDefectEntry i w s =
      (.taken, { s with rs := { s.rs with defects := Sparse.insert s.rs.defects i.val (defectOf w) } }) := by
  unfold decideDefectEntry
  rw [if_neg (not_noLot_or_closing h), if_neg free, if_pos inside]
  rfl

end

/-- Settles O41: the owner of the index decides by the lot state, the lock and the die; the store is read back after its write. -/
theorem defectEntryDecided : Obligations.DefectEntryDecided := by
  intro i b s h w writable locked inside
  have lock : indexLocked s.wt i.val = true ↔ locked := indexLocked_iff s.wt i.val
  have die : dieOk (defectOf w) = true ↔ inside := dieOk_iff (defectOf w)
  refine ⟨fun shut => ?wrongState, fun opened hl => ?listLocked, fun opened hl out => ?outOfRange,
    fun opened hl hin => ⟨Sparse.insert s.rs.defects i.val (defectOf w), ?taken, ?same, ?other⟩⟩
  case wrongState => exact exec_lineRefused h rfl (by decide) (decideDefectEntry_wrongState shut)
  case listLocked => exact exec_lineRefused h rfl (by decide) (decideDefectEntry_listLocked opened (lock.2 hl))
  case outOfRange =>
    exact exec_lineRefused h rfl (by decide) (decideDefectEntry_outOfRange opened (mt lock.1 hl) (mt die.1 out))
  case taken => exact exec_lineTaken h rfl (decideDefectEntry_taken opened (mt lock.1 hl) (die.2 hin))
  case same => exact Sparse.lookup_insert_same _ _ _
  case other => exact fun j hj => Sparse.lookup_insert_other _ _ hj

/-! ## The recall at a join (R105) -/

theorem modEntry_of_lookup {r : RevisitScheduler} {tag : Nat} {e : RevisitEntry} (h : Sparse.lookup r.table tag = some e)
    (f : RevisitEntry → RevisitEntry) : modEntry tag f r = { r with table := Sparse.insert r.table tag (f e) } := by
  simp only [modEntry, h]

theorem recallOnJoin_of_no_site {r : RevisitScheduler} (h : ∀ p ∈ r.table, isSite p.2.state = false) : recallOnJoin r = r := by
  have free : siteEntry r = none := List.find?_eq_none.2 fun p hp => by simp [h p hp]
  simp only [recallOnJoin, free]

theorem recallOnJoin_of_dispatched {r : RevisitScheduler} {tag : Nat} {e : RevisitEntry} (site : siteEntry r = some (tag, e))
    (stored : Sparse.lookup r.table tag = some e) (h : e.kind = .regular ∧ e.state = .dispatched) :
    recallOnJoin r = { r with table := Sparse.insert r.table tag { e with state := .recalling } } := by
  simp only [recallOnJoin, site, if_pos h, modEntry_of_lookup stored]

theorem recallOnJoin_of_not_dispatched {r : RevisitScheduler} {tag : Nat} {e : RevisitEntry} (site : siteEntry r = some (tag, e))
    (h : ¬ (e.kind = .regular ∧ e.state = .dispatched)) : recallOnJoin r = r := by
  simp only [recallOnJoin, site, if_neg h]

/-! ## What URGENT looks up (R78, R81, R82) -/

theorem laneFull_iff (r : RevisitScheduler) : laneFull r = true ↔ 4 ≤ laneOccupancy r := decide_eq_true_iff

theorem entryFor_eq (r : RevisitScheduler) (i : Nat) :
    entryFor r i = r.table.find? fun p => decide (p.2.defect = some i ∧ p.2.kind ≠ .calibration) := by
  simp only [entryFor, bne, beq_eq_decide, ne_eq, Bool.decide_and, decide_not]

/-- The table holds no entry for a defect index when only calibrations could name it. -/
theorem entryFor_eq_none {r : RevisitScheduler} {i : Nat} (h : ∀ p ∈ r.table, p.2.defect = some i → p.2.kind = .calibration) :
    entryFor r i = none := by
  rw [entryFor_eq, List.find?_eq_none]
  intro p hp found
  obtain ⟨defect, kind⟩ := of_decide_eq_true found
  exact kind (h p hp defect)

theorem inWafer_iff (s : State) (i : Nat) :
    inWafer s i = true ↔ ∃ c, s.rs.session.chamberSlot = some c ∧ rangeStart s.wt c ≤ i ∧ i < rangeEnd s.wt c
      ∧ Sparse.lookup s.rs.defects i ≠ none := by
  cases h : s.rs.session.chamberSlot <;>
    simp [inWafer, h, inRange_iff, Option.isSome_iff_ne_none, and_assoc]

/-- No tag is open when the table holds every tag up to n + 2 (R78). -/
theorem openTag_eq_none {r : RevisitScheduler}
    (h : ∀ tag, tag ≤ r.session.tallies.selected + 2 → Sparse.lookup r.table tag ≠ none) : openTag r = none := by
  rw [openTag, List.find?_eq_none]
  intro tag hmem
  have bound := List.mem_range.1 hmem
  simpa using h tag (by omega)

/-- The open tag is the lowest one the table does not hold (R78). -/
theorem openTag_eq_some {r : RevisitScheduler} {tag : Nat} (bound : tag ≤ r.session.tallies.selected + 2)
    (free : Sparse.lookup r.table tag = none) (lowest : ∀ t, t < tag → Sparse.lookup r.table t ≠ none) :
    openTag r = some tag := by
  rw [openTag, List.find?_range_eq_some]
  refine ⟨by simp [free], List.mem_range.2 (by omega), fun t ht => ?_⟩
  simpa [Option.isSome_iff_ne_none] using lowest t ht

/-! ## The effect of URGENT (R83) -/

theorem promote_eq {r : RevisitScheduler} {tag : Nat} {e : RevisitEntry} (h : Sparse.lookup r.table tag = some e) :
    promote tag r =
      recallOnJoin
        { r with
          queue := r.queue.filter (· ≠ tag), lane := r.lane ++ [tag]
          table := Sparse.insert r.table tag { e with kind := .urgent } } := by
  have moved := modEntry_of_lookup (r := { r with queue := r.queue.filter (· ≠ tag) }) h fun e => { e with kind := .urgent }
  exact congrArg (joinLane tag) moved

/-! ## The decision on URGENT (R82) -/

section
variable {w : Line} {i tag : Nat} {e : RevisitEntry} {s : State}

/-- URGENT passes its first two checks: a session in ALIGNING or ACTIVE, and a present defect of the chamber wafer (R82). -/
abbrev UrgentMeetsWafer (w : Line) (s : State) : Prop :=
  (s.rs.session.state = .aligning ∨ s.rs.session.state = .active) ∧ inWafer s (urgentIndex w) = true

theorem decideUrgent_wrongState (h : ¬ (s.rs.session.state = .aligning ∨ s.rs.session.state = .active)) :
    decideUrgent w s = (.wrongState, s) := if_pos (not_or.1 h)

theorem decideUrgent_notInWafer (h : s.rs.session.state = .aligning ∨ s.rs.session.state = .active)
    (out : ¬ inWafer s (urgentIndex w) = true) : decideUrgent w s = (.notInWafer, s) := by
  unfold decideUrgent
  rw [if_neg (mt not_or.2 (not_not.2 h)), if_pos (Bool.eq_false_of_not_eq_true out)]
  rfl

/-- With no entry for the defect, URGENT goes on to add one. -/
theorem decideUrgent_of_none (h : UrgentMeetsWafer w s) (found : entryFor s.rs (urgentIndex w) = none) :
    decideUrgent w s = decideUrgentJoin (urgentIndex w) none s := by
  obtain ⟨running, mine⟩ := h
  simp only [decideUrgent, if_neg (mt not_or.2 (not_not.2 running)), mine, found, Bool.true_eq_false, if_false]

/-- With an entry for the defect, its state and kind decide whether URGENT goes on to promote it. -/
theorem decideUrgent_of_some (h : UrgentMeetsWafer w s) (found : entryFor s.rs (urgentIndex w) = some (tag, e)) :
    decideUrgent w s =
      if e.state = .queued then
        if e.kind = .regular then decideUrgentJoin (urgentIndex w) (some tag) s else (.already, s)
      else if isSite e.state = true then (.already, s) else (.alreadyDone, s) := by
  obtain ⟨running, mine⟩ := h
  simp only [decideUrgent, if_neg (mt not_or.2 (not_not.2 running)), mine, found, Bool.true_eq_false, if_false]
  rfl

theorem decideUrgent_already (h : UrgentMeetsWafer w s) (found : entryFor s.rs (urgentIndex w) = some (tag, e))
    (waits : isSite e.state = true ∨ (e.state = .queued ∧ e.kind = .urgent)) : decideUrgent w s = (.already, s) := by
  rw [decideUrgent_of_some h found]
  rcases waits with site | ⟨queued, urgent⟩
  · have left : e.state ≠ .queued := fun queued => by simp [queued, isSite] at site
    rw [if_neg left, if_pos site]
  · rw [if_pos queued, if_neg (by simp [urgent])]

theorem decideUrgent_alreadyDone (h : UrgentMeetsWafer w s) (found : entryFor s.rs (urgentIndex w) = some (tag, e))
    (done : e.state = .retired ∨ e.state = .failed ∨ e.state = .notReviewed) : decideUrgent w s = (.alreadyDone, s) := by
  rw [decideUrgent_of_some h found]
  rcases done with done | done | done <;> simp [done, isSite]

theorem decideUrgent_of_regular (h : UrgentMeetsWafer w s) (found : entryFor s.rs (urgentIndex w) = some (tag, e))
    (queued : e.state = .queued) (regular : e.kind = .regular) :
    decideUrgent w s = decideUrgentJoin (urgentIndex w) (some tag) s := by
  rw [decideUrgent_of_some h found, if_pos queued, if_pos regular]

theorem decideUrgentJoin_laneFull (found : Option Nat) (full : 4 ≤ laneOccupancy s.rs) :
    decideUrgentJoin i found s = (.laneFull, s) := if_pos ((laneFull_iff _).2 full)

theorem not_laneFull (room : laneOccupancy s.rs < 4) : ¬ laneFull s.rs = true := fun full =>
  absurd ((laneFull_iff _).1 full) (by omega)

theorem decideUrgentJoin_promotes (room : laneOccupancy s.rs < 4) (stored : Sparse.lookup s.rs.table tag = some e) :
    decideUrgentJoin i (some tag) s =
      (.taken, { s with
        rs := recallOnJoin
          { s.rs with
            queue := s.rs.queue.filter (· ≠ tag), lane := s.rs.lane ++ [tag]
            table := Sparse.insert s.rs.table tag { e with kind := .urgent } } }) := by
  unfold decideUrgentJoin
  rw [if_neg (not_laneFull room), ← promote_eq stored]
  rfl

theorem decideUrgentJoin_tableFull (room : laneOccupancy s.rs < 4) (full : openTag s.rs = none) :
    decideUrgentJoin i none s = (.tableFull, s) := by
  simp only [decideUrgentJoin, if_neg (not_laneFull room), full]
  rfl

theorem decideUrgentJoin_adds (room : laneOccupancy s.rs < 4) (free : openTag s.rs = some tag) :
    decideUrgentJoin i none s = (.taken, { s with rs := addUrgent tag i s.rs }) := by
  simp only [decideUrgentJoin, if_neg (not_laneFull room), free]
  rfl

end

/-- Settles O39: the owner's checks in order, each in the state of the offer; what joins the lane is `promote` or `addUrgent`. -/
theorem urgentDecided : Obligations.UrgentDecided := by
  refine ⟨?command, ?atJoin⟩
  case atJoin =>
    exact fun r => ⟨recallOnJoin_of_no_site, fun tag e site stored =>
      ⟨recallOnJoin_of_dispatched site stored, recallOnJoin_of_not_dispatched site⟩⟩
  case command =>
    intro b s h i running mine taken refused
    have refuses : ∀ {o : PostOutcome}, o ≠ .taken →
        decideUrgent (recordWords .control b s) (offeredState .control b s) = (o, offeredState .control b s) → refused o :=
      fun hn hd => exec_refused h rfl rfl (by decide) hn hd
    have meets : running → mine → UrgentMeetsWafer (recordWords .control b s) (offeredState .control b s) :=
      fun hr hm => ⟨hr, (inWafer_iff (offeredState .control b s) i).2 hm⟩
    refine ⟨fun hr => ?wrongState, fun hr hm => ?notInWafer, fun hr hm tag e hf => ?found, fun hr hm hn => ?new⟩
    case wrongState => exact refuses (by decide) (decideUrgent_wrongState hr)
    case notInWafer =>
      exact refuses (by decide) (decideUrgent_notInWafer hr (mt (inWafer_iff (offeredState .control b s) i).1 hm))
    case found =>
      have entry : entryFor (offeredState .control b s).rs i = some (tag, e) := (entryFor_eq s.rs i).trans hf
      refine ⟨fun waits => ?already, fun done => ?alreadyDone, fun queued regular full => ?laneFull,
        fun queued regular room stored => ?promoted⟩
      case already => exact refuses (by decide) (decideUrgent_already (meets hr hm) entry waits)
      case alreadyDone => exact refuses (by decide) (decideUrgent_alreadyDone (meets hr hm) entry done)
      case laneFull =>
        exact refuses (by decide)
          ((decideUrgent_of_regular (meets hr hm) entry queued regular).trans (decideUrgentJoin_laneFull _ full))
      case promoted =>
        exact exec_taken h rfl rfl (by decide)
          ((decideUrgent_of_regular (meets hr hm) entry queued regular).trans (decideUrgentJoin_promotes room stored))
    case new =>
      have join := decideUrgent_of_none (meets hr hm) (entryFor_eq_none (r := (offeredState .control b s).rs) hn)
      refine ⟨fun full => ?laneFull, fun room full => ?tableFull, fun room tag bound free lowest => ?added⟩
      case laneFull => exact refuses (by decide) (join.trans (decideUrgentJoin_laneFull _ full))
      case tableFull => exact refuses (by decide) (join.trans (decideUrgentJoin_tableFull room (openTag_eq_none full)))
      case added =>
        exact exec_taken h rfl rfl (by decide)
          (join.trans (decideUrgentJoin_adds room (openTag_eq_some bound free lowest)))

end Sys2Proof.Machine
end

section
/-! PROOFS. The field correction table: TABLE_LOAD (R89) and the table stream lines it announces (R90, R91). -/

namespace Sys2Proof.Machine

theorem tableBusy_iff (s : State) : tableBusy s = true ↔ s.wt.chamber ≠ none ∨ s.rs.session.state ≠ .none := by
  simp [tableBusy, Option.isSome_iff_ne_none]

/-! ## TABLE_LOAD (R89) -/

section
variable {w : Line} {s : State}

/-- The indices a TABLE_LOAD names lie in the table, and there is one at least (R89). -/
abbrev LoadInRange (w : Line) : Prop :=
  loadStart w ≤ 1023 ∧ 1 ≤ loadCount w ∧ loadCount w ≤ 1024 ∧ loadStart w + loadCount w ≤ 1024

theorem decideTableLoad_tableBusy (busy : tableBusy s = true) : decideTableLoad w s = (.tableBusy, s) := if_pos busy

theorem decideTableLoad_outOfRange (free : ¬ tableBusy s = true) (outside : ¬ LoadInRange w) :
    decideTableLoad w s = (.outOfRange, s) := by
  unfold decideTableLoad
  rw [if_neg free, if_neg outside]
  rfl

theorem decideTableLoad_taken (free : ¬ tableBusy s = true) (inside : LoadInRange w) :
    decideTableLoad w s = (.taken, { s with rs := { s.rs with cursor := loadStart w, remaining := loadCount w } }) := by
  unfold decideTableLoad
  rw [if_neg free, if_pos inside]
  rfl

end

/-! ## The entries of a stream line (R90) -/

theorem streamEntryOk_iff (x : Word) :
    streamEntryOk x = true ↔ (x.getLsbD 32 = true →
      -500 ≤ sfld x 0 16 ∧ sfld x 0 16 ≤ 500 ∧ -500 ≤ sfld x 16 16 ∧ sfld x 16 16 ≤ 500) := by
  simp only [streamEntryOk, streamValid, bitAt, streamOffsets, Bool.or_eq_true, Bool.and_eq_true, Bool.not_eq_true',
    within_iff, and_assoc, ← Bool.not_eq_true, imp_iff_not_or]

@[simp] theorem streamEntries_length (w : Line) (remaining : Nat) : (streamEntries w remaining).length = min 8 remaining := by
  simp [streamEntries]

theorem lt_eight_of_lt_streamEntries {w : Line} {remaining k : Nat} (h : k < (streamEntries w remaining).length) : k < 8 := by
  rw [streamEntries_length] at h
  omega

@[simp] theorem streamEntries_getElem (w : Line) {remaining k : Nat} (h : k < (streamEntries w remaining).length) :
    (streamEntries w remaining)[k] = w[k]'(lt_eight_of_lt_streamEntries h) := by
  simp [streamEntries]

/-- A check of a line's entries is a check of its first m words. -/
theorem all_streamEntries_iff (w : Line) (remaining : Nat) (p : Word → Bool) :
    (streamEntries w remaining).all p = true ↔ ∀ j : Fin 8, j.val < min 8 remaining → p w[j] = true := by
  simp only [List.all_eq_true, List.forall_mem_iff_forall_getElem, streamEntries_getElem, streamEntries_length]
  exact ⟨fun h j hj => h j.val hj, fun h k hk => h ⟨k, by omega⟩ hk⟩

/-! ## Writing entries to the table (R91) -/

/-- What an index of the table reads once a stream entry is written to it: dx and dy, or nothing (R91). -/
def streamCorrection (x : Word) : Option (Int × Int) := if streamValid x then some (streamOffsets x) else none

theorem lookup_writeCorrection (m : Sparse (Int × Int)) (i j : Nat) (x : Word) :
    Sparse.lookup (writeCorrection m i x) j = if j = i then streamCorrection x else Sparse.lookup m j := by
  unfold writeCorrection streamCorrection
  by_cases valid : streamValid x = true
  · rw [if_pos valid, if_pos valid, Sparse.lookup_insert]
  · rw [if_neg valid, if_neg valid, Sparse.lookup_erase]

/-- Entries written from an index on leave every index before and after them. -/
theorem lookup_writeCorrections_outside (m : Sparse (Int × Int)) (i : Nat) (xs : List Word) {j : Nat}
    (h : j < i ∨ i + xs.length ≤ j) : Sparse.lookup (writeCorrections m i xs) j = Sparse.lookup m j := by
  induction xs generalizing m i with
  | nil => rfl
  | cons x xs ih =>
    rw [List.length_cons] at h
    have other : j ≠ i := by omega
    rw [writeCorrections, ih _ _ (by omega), lookup_writeCorrection, if_neg other]

/-- The entry at place k of those written stands k above the index they begin at. -/
theorem lookup_writeCorrections_at (m : Sparse (Int × Int)) (i : Nat) (xs : List Word) {k : Nat} (h : k < xs.length) :
    Sparse.lookup (writeCorrections m i xs) (i + k) = streamCorrection xs[k] := by
  induction xs generalizing m i k with
  | nil => simp at h
  | cons x xs ih =>
    rw [writeCorrections]
    cases k with
    | zero =>
      have first : i + 0 < i + 1 := Nat.lt_succ_self i
      rw [lookup_writeCorrections_outside _ _ _ (.inl first), lookup_writeCorrection, if_pos (Nat.add_zero i),
        List.getElem_cons_zero]
    | succ k =>
      have place : i + (k + 1) = i + 1 + k := by omega
      rw [place, ih _ _ (Nat.lt_of_succ_lt_succ h), List.getElem_cons_succ]

/-! ## The decision on a table stream line (R90) -/

section
variable {w : Line} {s : State}

/-- Every entry a line has to write is invalid or holds offsets in range (R90). -/
abbrev StreamInRange (w : Line) (s : State) : Prop := (streamEntries w s.rs.remaining).all streamEntryOk = true

theorem decideStreamLine_wrongState (idle : s.rs.remaining = 0) : decideStreamLine w s = (.wrongState, s) := if_pos idle

theorem decideStreamLine_tableBusy (loading : s.rs.remaining ≠ 0) (busy : tableBusy s = true) :
    decideStreamLine w s = (.tableBusy, s) := by
  unfold decideStreamLine
  rw [if_neg loading, if_pos busy]
  rfl

theorem decideStreamLine_outOfRange (loading : s.rs.remaining ≠ 0) (free : ¬ tableBusy s = true)
    (outside : ¬ StreamInRange w s) : decideStreamLine w s = (.outOfRange, s) := by
  unfold decideStreamLine
  rw [if_neg loading, if_neg free, if_neg outside]
  rfl

theorem decideStreamLine_taken (loading : s.rs.remaining ≠ 0) (free : ¬ tableBusy s = true) (inside : StreamInRange w s) :
    decideStreamLine w s = (.taken, { s with rs := takeStream w s.rs }) := by
  unfold decideStreamLine
  rw [if_neg loading, if_neg free, if_pos inside]
  rfl

end

/-- Settles O40: both owners decide in a state whose table, chamber and session read as before; the line's entries are read back
after they are written one by one. -/
theorem tableLoadAndStream : Obligations.TableLoadAndStream := by
  refine ⟨?load, ?stream⟩
  case load =>
    intro b s h start count busy inside
    have free : ¬ busy → ¬ tableBusy s = true := mt (tableBusy_iff s).1
    refine ⟨fun hb => ?tableBusy, fun hb out => ?outOfRange, fun hb hin => ?taken⟩
    case tableBusy =>
      exact exec_refused h rfl rfl (by decide) (by decide) (decideTableLoad_tableBusy ((tableBusy_iff s).2 hb))
    case outOfRange => exact exec_refused h rfl rfl (by decide) (by decide) (decideTableLoad_outOfRange (free hb) out)
    case taken => exact exec_taken h rfl rfl (by decide) (decideTableLoad_taken (free hb) hin)
  case stream =>
    intro b s h w busy m bad
    have free : ¬ busy → ¬ tableBusy s = true := mt (tableBusy_iff s).1
    have range : StreamInRange w s ↔ ¬ bad := by
      simp only [StreamInRange, all_streamEntries_iff, streamEntryOk_iff]
      exact ⟨fun ok ⟨j, hj, valid, out⟩ => out (ok j hj valid),
        fun good j hj valid => by_contra fun out => good ⟨j, hj, valid, out⟩⟩
    refine ⟨fun idle => ?wrongState, fun loading hb => ?tableBusy, fun loading hb hbad => ?outOfRange, fun loading hb good =>
      ⟨writeCorrections s.rs.corrections s.rs.cursor (streamEntries w s.rs.remaining), ?taken, fun j hj => ?written,
        fun i hi => ?kept⟩⟩
    case wrongState => exact exec_lineRefused h rfl (by decide) (decideStreamLine_wrongState idle)
    case tableBusy => exact exec_lineRefused h rfl (by decide) (decideStreamLine_tableBusy loading ((tableBusy_iff s).2 hb))
    case outOfRange =>
      exact exec_lineRefused h rfl (by decide) (decideStreamLine_outOfRange loading (free hb) fun ok => range.1 ok hbad)
    case taken => exact exec_lineTaken h rfl (decideStreamLine_taken loading (free hb) (range.2 good))
    case written =>
      have place : j.val < (streamEntries w s.rs.remaining).length := by rwa [streamEntries_length]
      rw [lookup_writeCorrections_at _ _ _ place, streamEntries_getElem w place]
      rfl
    case kept => exact lookup_writeCorrections_outside _ _ _ (by rwa [streamEntries_length])

end Sys2Proof.Machine
end

section
/-! PROOFS. The revisit cycle at the site: the arrival record (R103, R104) and the result record (R112, R113). Each decision is said
once by what it finds at the site; the obligations put it in the state of the offer. -/

namespace Sys2Proof.Machine

/-! ## A record decided for the site entry -/

/-- A record taken by an owner that changes the Revisit Scheduler, the Focus Engine and the Report Unit alone, under any row
(R9, R11). -/
theorem exec_takenAtSite {c : Instr} {slot : StagedSlot} {k : RecordKind} {b : WriteBurst} {s : State} {own : Owner}
    {rs : RevisitScheduler} {fe : FocusEngine} {ru : ReportUnit} (h : Offers slot k b s) (hc : writeTarget c = some b)
    (ho : ownersOf slot k = some own) (hs : slot ≠ .mailbox)
    (hd : own (recordWords slot b s) (offeredState slot b s) =
      (.taken, { offeredState slot b s with rs := rs, fe := fe, ru := ru })) :
    exec c s = .next { takenPost slot b s with rs := rs, fe := fe, ru := ru } := by
  rw [exec_post hc hs h.1, stagedStep_take h ho hd]
  rfl

theorem siteEntry_eq_none {r : RevisitScheduler} (h : ∀ p ∈ r.table, isSite p.2.state = false) : siteEntry r = none :=
  List.find?_eq_none.2 fun p hp => by simp [h p hp]

/-! ## The arrival record (R103, R104) -/

/-- The settle codes 1 and 2 are SETTLED and UNSETTLED, the others undefined (R167). -/
theorem settledOfCode_eq : ∀ n : Nat, settledOfCode n = if n = 1 ∨ n = 2 then some (decide (n = 1)) else none
  | 0 | 1 | 2 => by simp [settledOfCode]
  | n + 3 => by simp [settledOfCode]

/-- The position check counts UNSETTLED as off, whatever the distances (R104). -/
theorem positionOff_iff (tolerance : Nat) (target : Int × Int) (x y : Int) (settled : Bool) :
    positionOff tolerance target x y settled = true
      ↔ (tolerance : Int) < |x - target.1| ∨ (tolerance : Int) < |y - target.2| ∨ settled = false := by
  simp [positionOff, or_assoc]

/-- An arrival taken for a stored entry: the entry, the timer and the context's sequence change (R104). -/
theorem arriveEntry_eq {tag : Nat} {e : RevisitEntry} {s : State} {recipe : WaferRecipe} {target : Int × Int}
    {q : Option (BitVec 16)} (latched : s.rs.session.recipe = some recipe) (sent : e.target = some target)
    (numbered : e.sequence = q) (stored : Sparse.lookup s.rs.table tag = some e) (x y : Int) (settled : Bool) :
    arriveEntry tag e x y settled s =
      { s with
        rs := { s.rs with
          table := Sparse.insert s.rs.table tag { e with
            state := .arrived
            flags := { e.flags with
              positionOff := e.flags.positionOff || positionOff recipe.geometry.tolerance target x y settled } }
          timer := timerFor s.pi.setup.focusLimit }
        fe := { s.fe with context := s.fe.context.map fun c => { c with sequence := q } } } := by
  simp only [arriveEntry, modEntry_of_lookup stored, startTimer, toleranceOf, latched, sent, numbered,
    Option.map_some, Option.getD_some]

section
variable {w : Line} {s : State} {tag : Nat} {e : RevisitEntry}

/-- The arrival record names the site entry (R103). -/
abbrev ArrivalNames (w : Line) (e : RevisitEntry) : Prop :=
  (e.state = .dispatched ∨ e.state = .recalling) ∧ e.sequence = some (recordSequence w)

theorem decideArrival_free (free : siteEntry s.rs = none) : decideArrival w s = (.stale, s) := by
  simp only [decideArrival, free, refuse]

/-- With an entry at the site, the record's sequence and then its settle status decide. -/
theorem decideArrival_of_site (site : siteEntry s.rs = some (tag, e)) :
    decideArrival w s =
      if ArrivalNames w e then
        (arrivalSettled w).elim (.outOfRange, s) fun settled => (.taken, arriveEntry tag e (arrivalX w) (arrivalY w) settled s)
      else (.stale, s) := by
  simp only [decideArrival, site]
  cases arrivalSettled w <;> rfl

theorem decideArrival_stale (site : siteEntry s.rs = some (tag, e)) (other : ¬ ArrivalNames w e) :
    decideArrival w s = (.stale, s) := by
  rw [decideArrival_of_site site, if_neg other]

theorem decideArrival_outOfRange (site : siteEntry s.rs = some (tag, e)) (named : ArrivalNames w e)
    (undefined : arrivalSettled w = none) : decideArrival w s = (.outOfRange, s) := by
  rw [decideArrival_of_site site, if_pos named, undefined]
  rfl

theorem decideArrival_taken {settled : Bool} (site : siteEntry s.rs = some (tag, e)) (named : ArrivalNames w e)
    (status : arrivalSettled w = some settled) :
    decideArrival w s = (.taken, arriveEntry tag e (arrivalX w) (arrivalY w) settled s) := by
  rw [decideArrival_of_site site, if_pos named, status]
  rfl

end

/-- Settles O47: the owner's checks in order, in the state of the offer, where the site reads as before; the flag a taken arrival
stores is the position check's. -/
theorem arrivalDecided : Obligations.ArrivalDecided := by
  intro b s h w q
  refine ⟨fun free => ?noSite, fun tag e site => ⟨fun other => ?stale, fun hn h1 h2 => ?outOfRange,
    fun hn status recipe x y off latched sent stored hoff => ?taken⟩⟩
  case noSite =>
    exact exec_refused h rfl rfl (by decide) (by decide) (decideArrival_free (siteEntry_eq_none (r := s.rs) free))
  case stale => exact exec_refused h rfl rfl (by decide) (by decide) (decideArrival_stale site other)
  case outOfRange =>
    have undefined : arrivalSettled w = none := (settledOfCode_eq _).trans (if_neg (not_or.2 ⟨h1, h2⟩))
    exact exec_refused h rfl rfl (by decide) (by decide) (decideArrival_outOfRange site hn undefined)
  case taken =>
    have sequence : e.sequence = some q := hn.2
    have settled : arrivalSettled w = some (decide (fld w[0] 16 8 = 1)) := (settledOfCode_eq _).trans (if_pos status)
    have check : positionOff recipe.geometry.tolerance (x, y) (arrivalX w) (arrivalY w) (decide (fld w[0] 16 8 = 1)) = off := by
      have unsettled : ¬ fld w[0] 16 8 = 1 ↔ fld w[0] 16 8 = 2 := by omega
      rw [Bool.eq_iff_iff, positionOff_iff, hoff, decide_eq_false_iff_not, unsettled]
      rfl
    have decided := decideArrival_taken (s := offeredState .arrival b s) site hn settled
    rw [arriveEntry_eq (s := offeredState .arrival b s) latched sent sequence stored, check] at decided
    exact exec_takenAtSite h rfl rfl (by decide) decided

/-! ## The end of a revisit by a result (R113, R114) -/

/-- A failure reads the Revisit Scheduler, the Focus Engine, the Report Unit and the setup, and changes the first three (R114). -/
theorem failEntry_congr (tag : Nat) (reason : FailReason) {s t : State} (rs : t.rs = s.rs) (fe : t.fe = s.fe) (ru : t.ru = s.ru)
    (setup : t.pi.setup = s.pi.setup) :
    failEntry tag reason t =
      { t with rs := (failEntry tag reason s).rs, fe := (failEntry tag reason s).fe, ru := (failEntry tag reason s).ru } := by
  unfold failEntry
  rw [rs]
  cases Sparse.lookup s.rs.table tag with
  | none => rw [← rs, ← fe, ← ru]
  | some e => simp only [fe, ru, setup]

/-- A count of one class adds to that class alone (R69). -/
theorem countClass_getElem (c : Nat) (histogram : Vector Nat 64) (i : Fin 64) :
    (countClass c histogram)[i] = histogram[i] + if i.val = c then 1 else 0 := by
  unfold countClass
  split
  · by_cases hi : i.val = c
    · simp [hi]
    · simp [hi, Ne.symm hi]
  · have hi : i.val ≠ c := by omega
    simp [hi]

/-- The entry retires, the timer stops and the site is free; the counting falls on the states so left (R113). -/
theorem retireByResult_eq {tag : Nat} {e : RevisitEntry} {s : State} (stored : Sparse.lookup s.rs.table tag = some e)
    (kind : RevisitKind) (o : ResultOutcome) (c : Nat) :
    retireByResult tag kind o c s =
      { s with
        rs := countRetired kind o c
          { s.rs with timer := .stopped, table := Sparse.insert s.rs.table tag { e with state := .retired } }
        fe := countIfCalibration kind { s.fe with context := none } } := by
  have moved := modEntry_of_lookup (r := stopTimer s.rs) stored fun e => { e with state := .retired }
  simp only [retireByResult, retireEntry, leaveSite, moved]
  rfl

theorem countRetired_classified {kind : RevisitKind} (h : kind ≠ .calibration) (c : Nat) (r : RevisitScheduler) :
    countRetired kind .classified c r =
      { r with
        session := { r.session with
          tallies := { r.session.tallies with classified := r.session.tallies.classified + 1 }
          histogram := countClass c r.session.histogram } } := if_neg h

theorem countRetired_notFound {kind : RevisitKind} (h : kind ≠ .calibration) (c : Nat) (r : RevisitScheduler) :
    countRetired kind .notFound c r =
      { r with
        session := { r.session with tallies := { r.session.tallies with notFound := r.session.tallies.notFound + 1 } } } :=
  if_neg h

theorem countRetired_calibration {kind : RevisitKind} (h : kind = .calibration) (o : ResultOutcome) (c : Nat)
    (r : RevisitScheduler) : countRetired kind o c r = r := if_pos h

theorem countIfCalibration_calibration {kind : RevisitKind} (h : kind = .calibration) (f : FocusEngine) :
    countIfCalibration kind f =
      { f with stats := { f.stats with calUnmeasured := min (f.stats.calUnmeasured + 1) 255 } } := if_pos h

theorem countIfCalibration_other {kind : RevisitKind} (h : kind ≠ .calibration) (f : FocusEngine) :
    countIfCalibration kind f = f := if_neg h

/-! ## The result record (R112) -/

/-- The outcomes below 1 and above 3 are undefined (R167). -/
theorem resultOfCode_eq_none : ∀ n : Nat, resultOfCode n = none ↔ n < 1 ∨ 3 < n
  | 0 | 1 | 2 | 3 => by simp [resultOfCode]
  | n + 4 => by simp [resultOfCode]

section
variable {w : Line} {s : State} {tag : Nat} {e : RevisitEntry}

/-- The result record names the site entry (R112). -/
abbrev ResultNames (w : Line) (e : RevisitEntry) : Prop := e.state = .focused ∧ e.sequence = some (recordSequence w)

theorem decideResult_free (free : siteEntry s.rs = none) : decideResult w s = (.stale, s) := by
  simp only [decideResult, free, refuse]

theorem decideResult_stale (site : siteEntry s.rs = some (tag, e)) (other : ¬ ResultNames w e) :
    decideResult w s = (.stale, s) := by
  simp only [decideResult, site, if_neg other, refuse]

theorem decideResult_undefined (site : siteEntry s.rs = some (tag, e)) (named : ResultNames w e)
    (undefined : resultOutcome w = none) : decideResult w s = (.outOfRange, s) := by
  simp only [decideResult, site, if_pos named, undefined, refuse]

theorem decideResult_noClass (site : siteEntry s.rs = some (tag, e)) (named : ResultNames w e)
    (outcome : resultOutcome w = some .classified) (above : 63 < resultClass w) : decideResult w s = (.outOfRange, s) := by
  simp only [decideResult, site, if_pos named, outcome, true_and, if_pos above, refuse]

theorem decideResult_taken {o : ResultOutcome} (site : siteEntry s.rs = some (tag, e)) (named : ResultNames w e)
    (outcome : resultOutcome w = some o) (inside : o = .classified → resultClass w ≤ 63) :
    decideResult w s = (.taken, takeResult tag e.kind o (resultClass w) s) := by
  have passes : ¬ (o = .classified ∧ 63 < resultClass w) := fun ⟨classified, above⟩ =>
    absurd (inside classified) (Nat.not_le.2 above)
  simp only [decideResult, site, if_pos named, outcome, if_neg passes, take]

/-- A result that classifies the site entry, or finds nothing, retires it (R112, R113). -/
theorem decideResult_retires {o : ResultOutcome} (site : siteEntry s.rs = some (tag, e)) (named : ResultNames w e)
    (outcome : resultOutcome w = some o) (retires : o ≠ .imageFault) (inside : o = .classified → resultClass w ≤ 63)
    (stored : Sparse.lookup s.rs.table tag = some e) :
    decideResult w s =
      (.taken, { s with
        rs := countRetired e.kind o (resultClass w)
          { s.rs with timer := .stopped, table := Sparse.insert s.rs.table tag { e with state := .retired } }
        fe := countIfCalibration e.kind { s.fe with context := none } }) := by
  rw [decideResult_taken site named outcome inside, ← retireByResult_eq stored]
  cases o with
  | imageFault => exact absurd rfl retires
  | classified | notFound => rfl

end

/-- Settles O49: the owner's checks in order, in the state of the offer; an IMAGE_FAULT is a failure, which reads only the setup of
the Path Interface, and the other outcomes retire the entry with what its kind and the outcome count. -/
theorem resultDecided : Obligations.ResultDecided := by
  intro b s h w q o c
  refine ⟨fun free => ?noSite, fun tag e site => ⟨fun other => ?stale, fun hn bad => ?outOfRange, fun hn fault => ?fails,
    fun hn good stored => ?retires⟩⟩
  case noSite =>
    exact exec_refused h rfl rfl (by decide) (by decide) (decideResult_free (siteEntry_eq_none (r := s.rs) free))
  case stale => exact exec_refused h rfl rfl (by decide) (by decide) (decideResult_stale site other)
  case outOfRange =>
    rcases or_assoc.2 bad with undefined | ⟨classified, above⟩
    · exact exec_refused h rfl rfl (by decide) (by decide) (decideResult_undefined site hn ((resultOfCode_eq_none o).2 undefined))
    · exact exec_refused h rfl rfl (by decide) (by decide)
        (decideResult_noClass site hn (congrArg resultOfCode classified) above)
  case fails =>
    have decided := decideResult_taken (s := offeredState .result b s) site hn (congrArg resultOfCode fault) nofun
    rw [takeResult, failEntry_congr (s := s) (t := offeredState .result b s) tag .imageFault rfl rfl rfl rfl] at decided
    rw [failEntry_congr (s := s) (t := takenPost .result b s) tag .imageFault rfl rfl rfl rfl]
    exact exec_takenAtSite h rfl rfl (by decide) decided
  case retires =>
    have retired : ∀ {o' : ResultOutcome}, resultOutcome w = some o' → o' ≠ .imageFault →
        (o' = .classified → resultClass w ≤ 63) →
        exec (.result b) s = .next
          { takenPost .result b s with
            rs := countRetired e.kind o' c
              { s.rs with timer := .stopped, table := Sparse.insert s.rs.table tag { e with state := .retired } }
            fe := countIfCalibration e.kind { s.fe with context := none } } := fun outcome retires inside =>
      exec_takenAtSite h rfl rfl (by decide)
        (decideResult_retires (s := offeredState .result b s) site hn outcome retires inside stored)
    have classified (h1 : o = 1) := retired (congrArg resultOfCode h1) nofun fun _ => show c ≤ 63 by omega
    have notFound (h2 : o = 2) := retired (congrArg resultOfCode h2) nofun nofun
    refine ⟨fun cal => ?calibration, fun other h2 => ?notFound, fun other h1 => ⟨countClass c s.rs.session.histogram,
      countClass_getElem c _, ?classified⟩⟩
    case calibration =>
      rcases good with ⟨h1, -⟩ | h2
      · rw [classified h1, countRetired_calibration cal, countIfCalibration_calibration cal]
      · rw [notFound h2, countRetired_calibration cal, countIfCalibration_calibration cal]
    case notFound => rw [notFound h2, countRetired_notFound other, countIfCalibration_other other]
    case classified => rw [classified h1, countRetired_classified other, countIfCalibration_other other]

end Sys2Proof.Machine
end

section
/-! PROOFS. The zone map and the drift watch: the fold of a measured focus into its zone, the statistics and the drift run (R141 to
R145). -/

namespace Sys2Proof.Machine

/-! ## The zone folded (R142, R143) -/

/-- What is stored of a zone is `v`, and `v` is TRACKING. -/
abbrev Tracks (zone : Option Zone) (v : Zone) : Prop := zone = some v ∧ v.trust = .tracking

theorem isSome_trackingValue_iff (zone : Option Zone) : (zone.bind trackingValue).isSome = true ↔ ∃ v, Tracks zone v := by
  cases zone with
  | none => simp
  | some v => simp [trackingValue, Tracks]

theorem residualOk_iff (f : FocusRecipe) (r : Int) : residualOk f r = true ↔ f.residualLow ≤ r ∧ r ≤ f.residualHigh := by
  simp [residualOk]

section
variable {f : FocusRecipe} {r : Int} {zone : Option Zone} {v : Zone} (measured : Int)

theorem foldZone_of_untracked (r : Int) (untracked : ∀ v, ¬ Tracks zone v) :
    foldZone f measured r zone = { trust := .tracking, value := measured, count := 1, measured := true } := by
  cases zone with
  | none => rfl
  | some v => exact if_neg fun trust => untracked v ⟨rfl, trust⟩

theorem foldZone_of_inside (tracked : Tracks zone v) (inside : f.residualLow ≤ r ∧ r ≤ f.residualHigh) :
    foldZone f measured r zone =
      { trust := .tracking, value := v.value + roundDiv (measured - v.value) (2 ^ f.weightShift), count := min (v.count + 1) 255
        measured := true } := by
  obtain ⟨rfl, trust⟩ := tracked
  exact (if_pos trust).trans (if_pos ((residualOk_iff f r).2 inside))

theorem foldZone_of_outside (tracked : Tracks zone v) (outside : f.residualHigh < r ∨ r < f.residualLow) :
    foldZone f measured r zone = { trust := .suspect, value := v.value, count := v.count, measured := true } := by
  obtain ⟨rfl, trust⟩ := tracked
  have refused : ¬ residualOk f r = true := by
    rw [residualOk_iff]
    omega
  exact (if_pos trust).trans (if_neg refused)

end

/-! ## The statistics (R141, R143, R144) -/

/-- The zone is TRACKING and the residual lies above the high limit (R143). -/
abbrev CountsHigh (f : FocusRecipe) (r : Int) (zone : Option Zone) : Prop := (∃ v, Tracks zone v) ∧ f.residualHigh < r

/-- The zone is TRACKING and the residual lies below the low limit; the high limit is asked first (R143). -/
abbrev CountsLow (f : FocusRecipe) (r : Int) (zone : Option Zone) : Prop :=
  (∃ v, Tracks zone v) ∧ ¬ f.residualHigh < r ∧ r < f.residualLow

section
variable {f : FocusRecipe} {r : Int} {zone : Option Zone} {t : FocusStats}

theorem countResidual_of_high (high : CountsHigh f r zone) :
    countResidual f r zone t = { t with residualHigh := min (t.residualHigh + 1) 4095 } :=
  (if_pos ((isSome_trackingValue_iff zone).2 high.1)).trans (if_pos high.2)

theorem countResidual_of_low (low : CountsLow f r zone) :
    countResidual f r zone t = { t with residualLow := min (t.residualLow + 1) 4095 } :=
  (if_pos ((isSome_trackingValue_iff zone).2 low.1)).trans ((if_neg low.2.1).trans (if_pos low.2.2))

theorem countResidual_of_neither (high : ¬ CountsHigh f r zone) (low : ¬ CountsLow f r zone) :
    countResidual f r zone t = t := by
  unfold countResidual
  split
  next tracked =>
    have tracks := (isSome_trackingValue_iff zone).1 tracked
    have notHigh : ¬ f.residualHigh < r := fun h => high ⟨tracks, h⟩
    rw [if_neg notHigh, if_neg fun h => low ⟨tracks, notHigh, h⟩]
  next => rfl

/-- The residual moves the two residual tallies alone, each by its own condition (R143). -/
theorem countResidual_eq (f : FocusRecipe) (r : Int) (zone : Option Zone) (t : FocusStats)
    [Decidable (CountsHigh f r zone)] [Decidable (CountsLow f r zone)] :
    countResidual f r zone t =
      { t with
        residualHigh := if CountsHigh f r zone then min (t.residualHigh + 1) 4095 else t.residualHigh
        residualLow := if CountsLow f r zone then min (t.residualLow + 1) 4095 else t.residualLow } := by
  by_cases high : CountsHigh f r zone
  · have notLow : ¬ CountsLow f r zone := fun low => low.2.1 high.2
    rw [countResidual_of_high high, if_pos high, if_neg notLow]
  · by_cases low : CountsLow f r zone
    · rw [countResidual_of_low low, if_neg high, if_pos low]
    · rw [countResidual_of_neither high low, if_neg high, if_neg low]

end

/-- An accepted measurement counts once and widens the extremes to take it in (R141, R144). -/
theorem countAccepted_eq (measured : Int) (t : FocusStats) :
    countAccepted measured t =
      { t with
        accepted := min (t.accepted + 1) 4095, minFocus := min measured t.minFocus, maxFocus := max measured t.maxFocus } := by
  rw [min_def_lt measured, max_comm measured, max_def_lt]
  rfl

/-! ## The drift run (R145) -/

theorem feedRun_zero (t : FocusStats) : feedRun 0 t = { t with runCount := 0, runSign := none } := rfl

theorem feedRun_positive {r : Int} (h : 0 < r) (t : FocusStats) :
    feedRun r t =
      { t with
        runSign := some .positive
        runCount := if t.runSign = some .positive then min (t.runCount + 1) 15 else 1 } := by
  simp only [feedRun, if_neg h.ne', if_pos h]
  split
  next same => rw [← same]; rfl
  next => rfl

theorem feedRun_negative {r : Int} (h : r < 0) (t : FocusStats) :
    feedRun r t =
      { t with
        runSign := some .negative
        runCount := if t.runSign = some .negative then min (t.runCount + 1) 15 else 1 } := by
  simp only [feedRun, if_neg h.ne, if_neg h.not_gt]
  split
  next same => rw [← same]; rfl
  next => rfl

/-- A residual fed to the drift run moves the run's count and sign alone. -/
theorem feedRun_frame (r : Int) (t : FocusStats) : ∃ n sign, feedRun r t = { t with runCount := n, runSign := sign } := by
  rcases lt_trichotomy r 0 with negative | rfl | positive
  · exact ⟨_, _, feedRun_negative negative t⟩
  · exact ⟨_, _, feedRun_zero t⟩
  · exact ⟨_, _, feedRun_positive positive t⟩

/-! ## The fold (R141) -/

/-- The statistics a fold feeds to the drift run: the tallies and the extremes have moved, the run has not. -/
def foldedTallies (f : FocusRecipe) (measured r : Int) (zone : Option Zone) (t : FocusStats) : FocusStats :=
  countAccepted measured (countResidual f r zone t)

theorem foldedTallies_eq (f : FocusRecipe) (measured r : Int) (zone : Option Zone) (t : FocusStats)
    [Decidable (CountsHigh f r zone)] [Decidable (CountsLow f r zone)] :
    foldedTallies f measured r zone t =
      { t with
        accepted := min (t.accepted + 1) 4095
        residualHigh := if CountsHigh f r zone then min (t.residualHigh + 1) 4095 else t.residualHigh
        residualLow := if CountsLow f r zone then min (t.residualLow + 1) 4095 else t.residualLow
        minFocus := min measured t.minFocus
        maxFocus := max measured t.maxFocus } := by
  rw [foldedTallies, countAccepted_eq, countResidual_eq]

section
variable (f : FocusRecipe) (z : Nat × Nat) (measured prediction : Int) (fe : FocusEngine)

theorem foldMeasurement_lookup_same :
    Sparse.lookup (foldMeasurement f z measured prediction fe).zones (zoneKey z) =
      some (foldZone f measured (measured - prediction) (Sparse.lookup fe.zones (zoneKey z))) :=
  Sparse.lookup_insert_same _ _ _

theorem foldMeasurement_lookup_other {j : Nat} (h : j ≠ zoneKey z) :
    Sparse.lookup (foldMeasurement f z measured prediction fe).zones j = Sparse.lookup fe.zones j :=
  Sparse.lookup_insert_other _ _ h

theorem foldMeasurement_stats :
    (foldMeasurement f z measured prediction fe).stats =
      feedRun (measured - prediction)
        (foldedTallies f measured (measured - prediction) (Sparse.lookup fe.zones (zoneKey z)) fe.stats) := rfl

end

/-- Settles O55: the zone by the three cases of its fold; each statistic is a field of the equation for what the fold counts, which
the drift run leaves as it is but for its own two fields. -/
theorem zoneFoldAndDriftRun : Obligations.ZoneFoldAndDriftRun := by
  classical
  intro f z measured prediction fe key r t old tracking
  have zone : Sparse.lookup t.zones key = some (foldZone f measured r old) := foldMeasurement_lookup_same f z measured prediction fe
  have stats : t.stats = feedRun r (foldedTallies f measured r old fe.stats) := foldMeasurement_stats f z measured prediction fe
  rw [foldedTallies_eq] at stats
  refine ⟨rfl, rfl, fun j other => foldMeasurement_lookup_other f z measured prediction fe other, fun untracked => ?whole,
    fun v tracked low high => ?weighted, fun v tracked outside => ?suspect, ?statistics⟩
  case whole => rw [zone, foldZone_of_untracked measured r untracked]
  case weighted => rw [zone, foldZone_of_inside measured tracked ⟨low, high⟩]
  case suspect => rw [zone, foldZone_of_outside measured tracked outside]
  case statistics =>
    obtain ⟨n, sign, frame⟩ := feedRun_frame r _
    have kept := stats.trans frame
    have high : t.stats.residualHigh =
        if CountsHigh f r old then min (fe.stats.residualHigh + 1) 4095 else fe.stats.residualHigh := by rw [kept]
    have low : t.stats.residualLow =
        if CountsLow f r old then min (fe.stats.residualLow + 1) 4095 else fe.stats.residualLow := by rw [kept]
    refine ⟨by rw [kept], by rw [kept], by rw [kept], fun tracked above => ?countsHigh, fun tracked inside below => ?countsLow,
      fun quiet => ?keepsHigh, fun quiet => ?keepsLow, fun zero => ?zero, fun positive => ?positive, fun negative => ?negative,
      by rw [kept], by rw [kept], by rw [kept], by rw [kept]⟩
    case countsHigh => exact high.trans (if_pos ⟨tracked, above⟩)
    case countsLow => exact low.trans (if_pos ⟨tracked, inside.not_gt, below⟩)
    case keepsHigh =>
      have quietHigh : ¬ CountsHigh f r old := fun ⟨⟨v, tracked⟩, above⟩ =>
        quiet.elim (fun inside => inside.not_gt above) fun untracked => untracked v tracked
      exact high.trans (if_neg quietHigh)
    case keepsLow =>
      have quietLow : ¬ CountsLow f r old := by
        rintro ⟨⟨v, tracked⟩, notAbove, below⟩
        rcases quiet with inside | above | untracked
        · exact inside.not_gt below
        · exact notAbove above
        · exact untracked v tracked
      exact low.trans (if_neg quietLow)
    case zero =>
      rw [stats, zero, feedRun_zero]
      exact ⟨rfl, rfl⟩
    case positive =>
      rw [stats, feedRun_positive positive]
      exact ⟨rfl, rfl⟩
    case negative =>
      rw [stats, feedRun_negative negative]
      exact ⟨rfl, rfl⟩

end Sys2Proof.Machine
end

section
/-! PROOFS. The report FIFO: a composed record stored whole or dropped whole (R151, R152). The three ways a store can end are said once
each, by the room in the FIFO and by the threshold. -/

namespace Sys2Proof.Machine

/-! ## A record at the FIFO (R151, R152) -/

theorem raiseIn_eq (enable : EventSet) (e : EventKind) (r : ReportUnit) :
    raiseIn enable e r =
      { r with pendingEvents := r.pendingEvents ||| e.set, attn := attnOf enable (r.pendingEvents ||| e.set) } := rfl

/-- Storing these words takes the FIFO's count from at or below the threshold to above it (R152). -/
abbrev Crosses (threshold : Nat) (record : List Word) (r : ReportUnit) : Prop :=
  r.fifo.length ≤ threshold ∧ threshold < r.fifo.length + record.length

section
variable (enable : EventSet) {threshold : Nat} (isWafer : Bool) {record : List Word} {r : ReportUnit}

theorem storeIn_of_room (room : record.length ≤ 512 - r.fifo.length) :
    storeIn enable threshold isWafer record r =
      if Crosses threshold record r then raiseIn enable .reportThreshold { r with fifo := r.fifo ++ record }
      else { r with fifo := r.fifo ++ record } := by
  refine (if_pos room).trans ?_
  simp only [Bool.and_eq_true, decide_eq_true_eq]

theorem storeIn_of_crossing (room : record.length ≤ 512 - r.fifo.length) (crossing : Crosses threshold record r) :
    storeIn enable threshold isWafer record r = raiseIn enable .reportThreshold { r with fifo := r.fifo ++ record } :=
  (storeIn_of_room enable isWafer room).trans (if_pos crossing)

theorem storeIn_of_not_crossing (room : record.length ≤ 512 - r.fifo.length) (quiet : ¬ Crosses threshold record r) :
    storeIn enable threshold isWafer record r = { r with fifo := r.fifo ++ record } :=
  (storeIn_of_room enable isWafer room).trans (if_neg quiet)

theorem storeIn_of_no_room (full : 512 - r.fifo.length < record.length) :
    storeIn enable threshold isWafer record r =
      raiseIn enable .reportLost
        { r with
          reportLost := true
          lost := min (r.lost + 1) 65535
          waferReportsLost := if isWafer then min (r.waferReportsLost + 1) 255 else r.waferReportsLost } :=
  if_neg full.not_ge

end

/-- Settles O18: by the room for the record, and with room by the threshold; an event raised is pending and brings ATTN to its
condition. -/
theorem recordsStoredWholeOrDropped : Obligations.RecordsStoredWholeOrDropped := by
  intro enable threshold isWafer record r
  refine ⟨fun room => ⟨fun crossing => ?crossing, fun quiet => ?quiet⟩, fun full => ?dropped⟩
  case crossing => rw [storeIn_of_crossing enable isWafer room crossing, raiseIn_eq]
  case quiet => exact storeIn_of_not_crossing enable isWafer room quiet
  case dropped => rw [storeIn_of_no_room enable isWafer full, raiseIn_eq]

end Sys2Proof.Machine
end

section
/-! PROOFS. Everything that a decision, an acting read, the step timer or a pass of the checks can do to the state, said once: the
five laws of tier 3 are proved from it, move by move. -/

namespace Sys2Proof.Machine

/-! ## Checks of a handler command (R41) -/

theorem firstFailure_eq_none_iff (checks : List Check) : firstFailure checks = none ↔ ∀ x ∈ checks, x.1 = true := by
  induction checks with
  | nil => simp [firstFailure]
  | cons x rest ih =>
    obtain ⟨ok, reason⟩ := x
    cases ok <;> simp [firstFailure, ih]

/-- A command that has its wafer passes exactly when no check fails. -/
theorem settle_eq_ok_iff (checks : List Check) (wafer : Option CarrierSlot) (pass : CarrierSlot → State) (t : State) :
    settle checks wafer pass = .ok t ↔ (∀ x ∈ checks, x.1 = true) ∧ ∃ c, wafer = some c ∧ pass c = t := by
  rw [← firstFailure_eq_none_iff]
  unfold settle
  cases firstFailure checks <;> cases wafer <;> simp

/-- What the checks of a command say of its wafer and of the place it moves to (R41, R43 to R45). -/
def CommandMeets (v : Verb) (p : Place) (c : CarrierSlot) (t : WaferTracker) : Prop :=
  match v, p with
  | .pick, .carrier => (slotOf t c).location = .inCarrier ∧ t.robot = none
  | .pick, .aligner => t.aligner = some c ∧ t.robot = none
  | .pick, .stage => t.chamber = some c ∧ t.robot = none
  | .place, .aligner => t.robot = some c ∧ t.aligner = none
  | .place, .stage => t.robot = some c ∧ t.chamber = none
  | .place, .carrier => t.robot = some c

/-! ## The moves -/

/-- What a decision, an acting read or an expiry at the Revisit Scheduler, the Focus Engine and the Report Unit can do, with what its
checks say: nothing at the Path Interface or the Wafer Tracker. -/
inductive SiteMove (s : State) : State → Prop where
  | stands : SiteMove s s
  | aligned (x y : Int) : SiteMove s { s with rs := alignSession x y s.rs }
  | ended : SiteMove s { s with rs := endReview s.rs }
  | promoted (tag i : Nat) (e : RevisitEntry) (room : laneFull s.rs = false) (found : entryFor s.rs i = some (tag, e))
      (waits : e.state = .queued) : SiteMove s { s with rs := promote tag s.rs }
  | added (tag i : Nat) (room : laneFull s.rs = false) (free : openTag s.rs = some tag) :
      SiteMove s { s with rs := addUrgent tag i s.rs }
  | load (start count : Nat) (inside : start + count ≤ 1024) :
      SiteMove s { s with rs := { s.rs with cursor := start, remaining := count } }
  | streamed (w : Line) : SiteMove s { s with rs := takeStream w s.rs }
  | defect (i : Fin 4096) (d : DefectEntry) :
      SiteMove s { s with rs := { s.rs with defects := Sparse.insert s.rs.defects i.val d } }
  | acked (lost : Bool) : SiteMove s { s with ru := { s.ru with reportLost := lost } }
  | capability (m : ModeSet) : SiteMove s { s with fe := { s.fe with capability := m } }
  | arrived (tag : Nat) (e : RevisitEntry) (x y : Int) (settled : Bool) (site : siteEntry s.rs = some (tag, e)) :
      SiteMove s (arriveEntry tag e x y settled s)
  | swept (w : WaferRecipe) (c : FocusContext) (p : SweepPlan) (tag : Nat) (e : RevisitEntry) (scores : List Nat)
      (site : siteEntry s.rs = some (tag, e)) (context : s.fe.context = some c) : SiteMove s (actOnSweep w c p tag e scores s)
  | resulted (tag : Nat) (e : RevisitEntry) (o : ResultOutcome) (c : Nat) (site : siteEntry s.rs = some (tag, e)) :
      SiteMove s (takeResult tag e.kind o c s)
  | targeted : SiteMove s (actOnTarget s)
  | planned : SiteMove s (actOnPlan s)
  | events : SiteMove s { s with ru := clearEvents s.pi.setup.enable s.ru }
  | expired (tag : Nat) (e : RevisitEntry) (site : siteEntry s.rs = some (tag, e)) : SiteMove s (expireSite tag e s)
  | timed (timer : StepTimer) : SiteMove s { s with rs := { s.rs with timer := timer } }

/-- What any decision, acting read, expiry or pass of a handler command can do, with what its checks say. -/
inductive Move (s : State) : State → Prop where
  | site {t : State} (move : SiteMove s t) : Move s t
  | setup (u : Setup) : Move s (applySetup u s)
  | clear : Move s (toolClear s)
  | recipes (f : Option FocusRecipe) (m : Option SamplingRecipe) (g : Option GeometryRecipe)
      (capped : m = s.pi.samplingRecipe ∨ ∃ r, m = some r ∧ r.cap ≤ 508) :
      Move s { s with pi := { s.pi with focusRecipe := f, samplingRecipe := m, geometryRecipe := g } }
  | lotHeader (check : Bool) (w : Line) (free : s.wt.lot = .noLot) :
      Move s { s with wt := openLot check w s.wt, rs := { s.rs with defects := [] } }
  | slotMarks (c : CarrierSlot) (f : SlotRecord → SlotRecord) (still : ∀ r, (f r).location = r.location) :
      Move s { s with wt := modSlot c f s.wt }
  | slotMap (m : Vector Condition 25) (loading : s.wt.lot = .loading) : Move s { s with wt := applyMap m s.wt }
  | idRead (c : CarrierSlot) (ok : Bool) (v : WaferId) : Move s (applyIdRead c ok v s)
  | closing (carrier : s.wt.lot ≠ .noLot ∧ s.wt.lot ≠ .loading) : Move s { s with wt := { s.wt with lot := .closing } }
  | close (rest : atRest s.wt = true) : Move s (closeLot s)
  | passed (k : HeldCommand) (lot : s.wt.lot ≠ .noLot ∧ s.wt.lot ≠ .loading) (meets : CommandMeets k.verb k.place k.wafer s.wt) :
      Move s { s with wt := passCommand k s.wt }
  | exits (k : HeldCommand) (lot : s.wt.lot ≠ .noLot ∧ s.wt.lot ≠ .loading) (meets : CommandMeets k.verb k.place k.wafer s.wt) :
      Move s { s with wt := passCommand k s.wt, rs := exitStarted s.rs }
  | done (k : HeldCommand) (held : s.wt.channel = .outstanding k) : Move s (completeDone k s)
  | fault (k : HeldCommand) (n : Nat) (held : s.wt.channel = .outstanding k) : Move s (completeFault k n s)
  | relocate (c : CarrierSlot) (v : Verb) (p : Place) (l : Location) (halted : s.wt.channel = .halted c v p)
      (fits : relocationOk c p l s.wt = true) :
      Move s (restTest (relocateNotice c v p l { s with wt := relocateWafer c l s.wt }))

/-- A refusal changes nothing. -/
theorem Move.stands (s : State) : Move s s := .site .stands

/-! ## The control commands -/

theorem move_decideLotClose (w : Line) (s : State) : Move s (decideLotClose w s).2 := by
  unfold decideLotClose
  split_ifs with lot rest
  · exact .stands s
  · exact .close rest
  · exact .closing (not_or.1 lot)

theorem move_decideIdOverride (w : Line) (s : State) : Move s (decideIdOverride w s).2 := by
  unfold decideIdOverride
  split_ifs with lot
  · exact .stands s
  · split
    · exact .stands s
    · split_ifs
      · exact .slotMarks _ _ fun _ => rfl
      · exact .stands s

theorem move_decideRelocate (w : Line) (s : State) : Move s (decideRelocate w s).2 := by
  unfold decideRelocate
  split
  case h_1 c v p halted =>
    split_ifs
    · exact .stands s
    · split
      · exact .stands s
      · split_ifs with fits
        · exact .relocate _ _ _ _ halted fits
        · exact .stands s
  all_goals exact .stands s

theorem move_decideAlignment (w : Line) (s : State) : Move s (decideAlignment w s).2 := by
  unfold decideAlignment
  split_ifs
  · exact .stands s
  · exact .site (.aligned _ _)
  · exact .stands s

theorem move_decideEndWafer (w : Line) (s : State) : Move s (decideEndWafer w s).2 := by
  unfold decideEndWafer
  split_ifs
  · exact .site .ended
  · exact .stands s

theorem move_decideUrgentJoin (i : Nat) (found : Option Nat) (s : State)
    (queued : ∀ tag, found = some tag → ∃ e, entryFor s.rs i = some (tag, e) ∧ e.state = .queued) :
    Move s (decideUrgentJoin i found s).2 := by
  unfold decideUrgentJoin
  split_ifs with full
  · exact .stands s
  · have room : laneFull s.rs = false := by simpa using full
    cases found with
    | some tag =>
      obtain ⟨e, he, waits⟩ := queued tag rfl
      exact .site (.promoted tag i e room he waits)
    | none =>
      cases free : openTag s.rs with
      | none => exact .stands s
      | some tag => exact .site (.added tag i room free)

theorem move_decideUrgent (w : Line) (s : State) : Move s (decideUrgent w s).2 := by
  simp only [decideUrgent]
  split_ifs
  · exact .stands s
  · exact .stands s
  · split
    · exact move_decideUrgentJoin _ _ _ (by simp)
    case h_2 tag e found =>
      split_ifs with waits regular
      · exact move_decideUrgentJoin _ _ _ fun t ht => ⟨e, by rw [← Option.some.inj ht, found], waits⟩
      all_goals exact .stands s

theorem move_decideTableLoad (w : Line) (s : State) : Move s (decideTableLoad w s).2 := by
  unfold decideTableLoad
  split_ifs with busy inside
  · exact .stands s
  · obtain ⟨-, -, -, inside⟩ := inside
    exact .site (.load _ _ inside)
  · exact .stands s

theorem move_decideAckFlags (w : Line) (s : State) : Move s (decideAckFlags w s).2 := by
  unfold decideAckFlags
  split_ifs
  · exact .site (.acked _)
  · exact .stands s

/-! ## The other staged records -/

theorem move_decideSetup (w : Line) (s : State) : Move s (decideSetup w s).2 := by
  unfold decideSetup
  split_ifs
  · exact .stands s
  · split
    · exact .stands s
    · exact .setup _

theorem move_decideLotHeader (w : Line) (s : State) : Move s (decideLotHeader w s).2 := by
  unfold decideLotHeader
  split_ifs with lot
  · exact .stands s
  · split
    · exact .stands s
    · exact .lotHeader _ _ (not_not.1 lot)

theorem move_decideWaferEntry (c : CarrierSlot) (w : Line) (s : State) : Move s (decideWaferEntry c w s).2 := by
  unfold decideWaferEntry
  split_ifs
  · exact .stands s
  · exact .stands s
  · exact .stands s
  · exact .slotMarks _ _ fun _ => rfl

theorem move_decideFocusRecipe (w : Line) (s : State) : Move s (decideFocusRecipe w s).2 := by
  unfold decideFocusRecipe
  split
  · exact .stands s
  · split_ifs
    · exact .recipes _ _ _ (.inl rfl)
    · exact .stands s

theorem move_decideSamplingRecipe (w : Line) (s : State) : Move s (decideSamplingRecipe w s).2 := by
  unfold decideSamplingRecipe
  rw [samplingRecipeOf_eq]
  split_ifs with inside
  · obtain ⟨-, -, -, -, capped, -⟩ := inside
    exact .recipes _ _ _ (.inr ⟨_, rfl, capped⟩)
  · exact .stands s

theorem move_decideGeometryRecipe (w : Line) (s : State) : Move s (decideGeometryRecipe w s).2 := by
  unfold decideGeometryRecipe
  split
  · exact .stands s
  · split_ifs
    · exact .recipes _ _ _ (.inl rfl)
    · exact .stands s

theorem move_decideCompletion (w : Line) (s : State) : Move s (decideCompletion w s).2 := by
  unfold decideCompletion
  split
  case h_1 k held =>
    split_ifs
    · exact .stands s
    · split
      · exact .stands s
      · exact .done k held
      · exact .fault k _ held
  all_goals exact .stands s

theorem move_decideSlotMap (w : Line) (s : State) : Move s (decideSlotMap w s).2 := by
  unfold decideSlotMap
  split_ifs with lot
  · exact .stands s
  · exact .slotMap _ (not_not.1 lot)
  · exact .stands s

theorem move_decideIdRead (w : Line) (s : State) : Move s (decideIdRead w s).2 := by
  unfold decideIdRead
  split
  · exact .stands s
  · split
    · exact .stands s
    · exact .idRead _ _ _

theorem move_decideArrival (w : Line) (s : State) : Move s (decideArrival w s).2 := by
  unfold decideArrival
  split
  · exact .stands s
  case h_2 tag e site =>
    split_ifs
    · split
      · exact .stands s
      · exact .site (.arrived tag e _ _ _ site)
    · exact .stands s

theorem move_decideSweep (w : Line) (s : State) : Move s (decideSweep w s).2 := by
  unfold decideSweep
  split
  case h_1 tag e c recipe site context latched =>
    split_ifs
    · split
      · exact .stands s
      · split_ifs
        · exact .site (.swept recipe c _ tag e _ site context)
        · exact .stands s
    · exact .stands s
  · exact .stands s

theorem move_decideResult (w : Line) (s : State) : Move s (decideResult w s).2 := by
  unfold decideResult
  split
  · exact .stands s
  case h_2 tag e site =>
    split_ifs
    · split
      · exact .stands s
      · split_ifs
        · exact .stands s
        · exact .site (.resulted tag e _ _ site)
    · exact .stands s

/-! ## Owners, judge, bulk owners, answers and the timer -/

theorem move_controlOwners {k : RecordKind} {own : Owner} (h : controlOwners k = some own) (w : Line) (s : State) :
    Move s (own w s).2 := by
  cases k <;> simp only [controlOwners, Option.some.injEq, reduceCtorEq] at h <;> subst h
  case clear => exact .clear
  case lotClose => exact move_decideLotClose w s
  case idOverride => exact move_decideIdOverride w s
  case relocate => exact move_decideRelocate w s
  case alignment => exact move_decideAlignment w s
  case endWafer => exact move_decideEndWafer w s
  case urgent => exact move_decideUrgent w s
  case tableLoad => exact move_decideTableLoad w s
  case ackFlags => exact move_decideAckFlags w s

/-- The owner a slot with one kind has is that kind's. -/
theorem owner_of_onlyKind {j k : RecordKind} {named own : Owner} (h : onlyKind j named k = some own) : own = named := by
  simp only [onlyKind, withOwner] at h
  split_ifs at h
  exact (Option.some.inj h).symm

/-- Every owner's decision leaves a move. -/
theorem move_owner {slot : StagedSlot} {k : RecordKind} {own : Owner} (h : ownersOf slot k = some own) (w : Line) (s : State) :
    Move s (own w s).2 := by
  cases slot
  case control => exact move_controlOwners h w s
  case mailbox => simp [ownersOf] at h
  all_goals obtain rfl := owner_of_onlyKind h
  case setup => exact move_decideSetup w s
  case lotHeader => exact move_decideLotHeader w s
  case waferEntry c => exact move_decideWaferEntry c w s
  case focusRecipe => exact move_decideFocusRecipe w s
  case samplingRecipe => exact move_decideSamplingRecipe w s
  case geometryRecipe => exact move_decideGeometryRecipe w s
  case completion => exact move_decideCompletion w s
  case slotMap => exact move_decideSlotMap w s
  case idRead => exact move_decideIdRead w s
  case arrival => exact move_decideArrival w s
  case sweep => exact move_decideSweep w s
  case capability => exact .site (.capability _)
  case result => exact move_decideResult w s

/-- The lot is OPEN or CLOSING after the first check of every command (R41). -/
theorem lot_of_channelChecks {t : WaferTracker} {rest : List Check} (h : ∀ x ∈ channelChecks t ++ rest, x.1 = true) :
    t.lot ≠ .noLot ∧ t.lot ≠ .loading := by
  have lot := h (t.lot == .opened || t.lot == .closing, .noLot) (by simp [channelChecks])
  simp only [Bool.or_eq_true, beq_iff_eq] at lot
  rcases lot with lot | lot <;> simp [lot]

/-- A handler command that passes leaves a move. -/
theorem move_judge {w : Line} {tag : BitVec 8} {s t : State} (h : judgeCommand w tag s = .ok t) : Move s t := by
  unfold judgeCommand at h
  cases hv : commandVerb w <;> cases hp : commandPlace w <;> rw [hv, hp] at h <;> try cases h
  rename_i v p
  cases v <;> cases p <;> simp only [judgeByCode] at h
  case pick.carrier =>
    unfold judgePickCarrier at h
    split at h
    · cases h
    · obtain ⟨checks, c, hc, rfl⟩ := (settle_eq_ok_iff ..).1 h
      have lot := lot_of_channelChecks checks
      simp only [pickCarrierChecks, List.forall_mem_append, List.forall_mem_cons, beq_iff_eq] at checks
      obtain ⟨-, -, robot, -, -, location, -⟩ := checks
      cases hc
      exact .passed _ lot ⟨location, robot⟩
  case pick.aligner =>
    obtain ⟨checks, c, hc, rfl⟩ := (settle_eq_ok_iff ..).1 h
    have lot := lot_of_channelChecks checks
    simp only [pickAlignerChecks, List.forall_mem_append, List.forall_mem_cons, beq_iff_eq] at checks
    exact .passed _ lot ⟨hc, checks.2.1⟩
  case pick.stage =>
    obtain ⟨checks, c, hc, rfl⟩ := (settle_eq_ok_iff ..).1 h
    have lot := lot_of_channelChecks checks
    simp only [pickStageChecks, List.forall_mem_append, List.forall_mem_cons, beq_iff_eq] at checks
    exact .exits _ lot ⟨hc, checks.2.1⟩
  case place.aligner =>
    obtain ⟨checks, c, hc, rfl⟩ := (settle_eq_ok_iff ..).1 h
    have lot := lot_of_channelChecks checks
    simp only [placeAlignerChecks, List.forall_mem_append, List.forall_mem_cons, beq_iff_eq] at checks
    obtain ⟨-, -, aligner, -⟩ := checks
    exact .passed _ lot ⟨hc, aligner⟩
  case place.stage =>
    obtain ⟨checks, c, hc, rfl⟩ := (settle_eq_ok_iff ..).1 h
    have lot := lot_of_channelChecks checks
    simp only [placeStageChecks, List.forall_mem_append, List.forall_mem_cons, beq_iff_eq] at checks
    obtain ⟨-, -, chamber, -⟩ := checks
    exact .passed _ lot ⟨hc, chamber⟩
  case place.carrier =>
    unfold judgePlaceCarrier at h
    split at h
    · cases h
    · obtain ⟨checks, c, hc, rfl⟩ := (settle_eq_ok_iff ..).1 h
      exact .passed _ (lot_of_channelChecks checks) hc

/-- Every line's decision leaves a move. -/
theorem move_bulkOwner (slot : BulkSlot) (w : Line) (s : State) : Move s (bulkOwner slot w s).2 := by
  cases slot with
  | tableStream =>
    simp only [bulkOwner, decideStreamLine]
    split_ifs
    · exact .stands s
    · exact .stands s
    · exact .site (.streamed w)
    · exact .stands s
  | defect i =>
    simp only [bulkOwner, decideDefectEntry]
    split_ifs
    · exact .stands s
    · exact .stands s
    · exact .site (.defect i _)
    · exact .stands s

/-- Every served read leaves a move. -/
theorem move_serve (z : ServedSlot) (role : Role) (s : State) : Move s (serveTable z role s).2 := by
  cases z
  case status => exact .stands s
  case reportWindow => exact .stands s
  case event =>
    simp only [serveTable, serveEvent]
    split_ifs
    · exact .site .events
    · exact .stands s
  case target =>
    simp only [serveTable, serveTarget]
    split_ifs
    · exact .site .targeted
    · exact .stands s
  case plan =>
    simp only [serveTable, servePlan]
    split_ifs
    · exact .site .planned
    · exact .stands s

theorem move_expireIn (states : List RevisitState) (s : State) : Move s (expireIn states s) := by
  unfold expireIn
  split
  case h_1 tag e site =>
    split_ifs
    · exact .site (.expired tag e site)
    · exact .stands s
  · exact .stands s

theorem move_expireTimer (s : State) : Move s (expireTimer s) := by
  unfold expireTimer
  split
  case h_1 tag e site => exact .site (.expired tag e site)
  · exact .stands s

theorem move_tick (s : State) : Move s (tick s) := by
  unfold tick
  split
  · exact .stands s
  · exact .site (.timed _)
  · split_ifs
    · exact .site (.timed _)
    · exact move_expireTimer s

/-- A property that recording, the queue and pin reset keep, and that every move keeps, is kept by every step. -/
theorem Kept.ofMoves {P : State → Prop} (traffic : ∀ (s : State) (t : Traffic), P s → P { s with traffic := t })
    (queue : ∀ (s : State) (q : List Instr), P s → P (s.withPending q))
    (buffer : ∀ (s : State) (slot : StagedSlot) (u : StagingBuffer), P s → P { s with pi := setBuffer slot u s.pi })
    (post : ∀ (slot : Nat) (tag : BitVec 8) (o : PostOutcome) (s : State), P s → P (recordPost slot tag o s))
    (rewrite : ∀ (reason : RewriteReason) (s : State), P s → P (recordRewrite reason s))
    (pop : ∀ (n : Nat) (s : State), P s → P { s with ru := { s.ru with fifo := s.ru.fifo.drop n } })
    (reset : ∀ (wb : BitVec 3) (bypass : Bool) (s : State), P s → P (pinResetState wb bypass s))
    (move : ∀ s t : State, Move s t → P s → P t) : Kept P where
  traffic := traffic
  queue := queue
  buffer := buffer
  post := post
  rewrite := rewrite
  pop := pop
  reset := reset
  owner _ _ _ ho w s := move s _ (move_owner ho w s)
  judge _ _ s t hs ht := move s t (move_judge ht) hs
  bulk slot w s := move s _ (move_bulkOwner slot w s)
  serve z role s := move s _ (move_serve z role s)
  expire states s := move s _ (move_expireIn states s)
  tick s := move s _ (move_tick s)

end Sys2Proof.Machine
end

section
/-! PROOFS. What the work at the site leaves within its bounds, block by block: the Revisit Scheduler's stores, the Focus Engine's zones
and counts, and the Report Unit. Each operation of the revisit cycle and of the focus step is passed through once. -/

namespace Sys2Proof.Machine

/-! ## The bounds of each block -/

/-- The Revisit Scheduler's part of `StoresBounded`. -/
structure SchedulerBounded (r : RevisitScheduler) : Prop where
  defects : Sparse.wf 4096 r.defects = true
  table : Sparse.wf 512 r.table = true
  corrections : Sparse.wf 1024 r.corrections = true
  stream : r.cursor + r.remaining ≤ 1024
  selected : r.session.tallies.selected ≤ 508
  recipe : ∀ w, r.session.recipe = some w → w.sampling.cap ≤ 508

/-- A zone lies on the grid (R136). -/
abbrev OnGrid (z : Nat × Nat) : Prop := z.1 < 12 ∧ z.2 < 12

/-- The Focus Engine's part of `StoresBounded`. -/
structure FocusBounded (f : FocusEngine) : Prop where
  zones : Sparse.wf 144 f.zones = true
  context : ∀ c, f.context = some c → OnGrid c.zone

/-- The stored sampling recipe's part of `StoresBounded`. -/
abbrev RecipeCapped (p : PathInterface) : Prop := ∀ m, p.samplingRecipe = some m → m.cap ≤ 508

theorem storesBounded_iff (s : State) : StoresBounded s ↔ RecipeCapped s.pi ∧ SchedulerBounded s.rs ∧ FocusBounded s.fe := by
  constructor
  · rintro ⟨defects, table, corrections, zones, stream, selected, capped, recipe, context⟩
    exact ⟨capped, ⟨defects, table, corrections, stream, selected, recipe⟩, ⟨zones, context⟩⟩
  · rintro ⟨capped, ⟨defects, table, corrections, stream, selected, recipe⟩, ⟨zones, context⟩⟩
    exact ⟨defects, table, corrections, zones, stream, selected, capped, recipe, context⟩

/-- The statistics' part of `CountsHold` (R130, R138). -/
structure StatsHold (t : FocusStats) : Prop where
  accepted : t.accepted ≤ 4095
  residualHigh : t.residualHigh ≤ 4095
  residualLow : t.residualLow ≤ 4095
  runCount : t.runCount ≤ 15
  driftEvents : t.driftEvents ≤ 255
  calRun : t.calRun ≤ 255
  calSuppressed : t.calSuppressed ≤ 255
  calUnmeasured : t.calUnmeasured ≤ 255

/-- The Focus Engine's part of `CountsHold`. -/
structure FocusCounts (f : FocusEngine) : Prop where
  stats : StatsHold f.stats
  zones : ∀ z ∈ f.zones, z.2.count ≤ 255

/-- The Wafer Tracker's part of `CountsHold` (R37). -/
structure TrackerCounts (t : WaferTracker) : Prop where
  reviewed : t.tallies.reviewed ≤ 255
  faults : t.tallies.faults ≤ 65535
  mismatches : t.tallies.mismatches ≤ 65535
  present : t.tallies.present ≤ 25
  notVisited : t.tallies.notVisited ≤ 25

/-- The Report Unit's part of `CountsHold` (R151, R157). -/
structure ReportCounts (r : ReportUnit) : Prop where
  lost : r.lost ≤ 65535
  waferReportsLost : r.waferReportsLost ≤ 255

theorem countsHold_iff (s : State) :
    CountsHold s ↔ s.pi.refusals ≤ 65535 ∧ ReportCounts s.ru ∧ TrackerCounts s.wt
      ∧ s.rs.session.tallies.restarts ≤ 65535 ∧ FocusCounts s.fe := by
  constructor
  · rintro ⟨refusals, lost, waferReportsLost, reviewed, faults, mismatches, present, notVisited, restarts, accepted, residualHigh,
      residualLow, runCount, driftEvents, calRun, calSuppressed, calUnmeasured, zones⟩
    exact ⟨refusals, ⟨lost, waferReportsLost⟩, ⟨reviewed, faults, mismatches, present, notVisited⟩, restarts,
      ⟨accepted, residualHigh, residualLow, runCount, driftEvents, calRun, calSuppressed, calUnmeasured⟩, zones⟩
  · rintro ⟨refusals, ⟨lost, waferReportsLost⟩, ⟨reviewed, faults, mismatches, present, notVisited⟩, restarts,
      ⟨accepted, residualHigh, residualLow, runCount, driftEvents, calRun, calSuppressed, calUnmeasured⟩, zones⟩
    exact ⟨refusals, lost, waferReportsLost, reviewed, faults, mismatches, present, notVisited, restarts, accepted, residualHigh,
      residualLow, runCount, driftEvents, calRun, calSuppressed, calUnmeasured, zones⟩

/-- A property of the enable set and the Report Unit that each of the unit's own operations keeps. -/
structure KeptReports (Q : EventSet → ReportUnit → Prop) : Prop where
  raise : ∀ (n n' : EventSet) (e : EventKind) (r : ReportUnit), Q n r → Q n' (raiseIn n' e r)
  store : ∀ (n : EventSet) (threshold : Nat) (isWafer : Bool) (record : List Word) (r : ReportUnit), Q n r →
    Q n (storeIn n threshold isWafer record r)
  lastRefusal : ∀ (n : EventSet) (p : PostRecord) (r : ReportUnit), Q n r → Q n { r with lastRefusal := p }
  lastRewrite : ∀ (n : EventSet) (x : Option RewriteReason) (r : ReportUnit), Q n r → Q n { r with lastRewrite := x }
  reportLost : ∀ (n : EventSet) (x : Bool) (r : ReportUnit), Q n r → Q n { r with reportLost := x }
  waferReportsLost : ∀ (n : EventSet) (r : ReportUnit), Q n r → Q n { r with waferReportsLost := 0 }
  pop : ∀ (n : EventSet) (k : Nat) (r : ReportUnit), Q n r → Q n { r with fifo := r.fifo.drop k }
  clearEvents : ∀ (n : EventSet) (r : ReportUnit), Q n r → Q n (clearEvents n r)
  clearReports : ∀ n : EventSet, Q n (clearReports n)
  reset : Q 0 ReportUnit.reset

/-! ## What each block keeps -/

/-- A change of the Revisit Scheduler that keeps its bounds. -/
structure SchedulerKept (r r' : RevisitScheduler) : Prop where
  bounded : SchedulerBounded r → SchedulerBounded r'
  restarts : r.session.tallies.restarts ≤ 65535 → r'.session.tallies.restarts ≤ 65535

/-- A change of the Focus Engine that keeps its bounds. -/
structure FocusKept (f f' : FocusEngine) : Prop where
  bounded : FocusBounded f → FocusBounded f'
  counts : FocusCounts f → FocusCounts f'

/-- A change of the Report Unit that keeps whatever its own operations keep. -/
def ReportsKept (n : EventSet) (r r' : ReportUnit) : Prop := ∀ Q, KeptReports Q → Q n r → Q n r'

/-- Work at the site: the Path Interface and the Wafer Tracker stand, the other blocks keep their bounds. -/
structure Work (s t : State) : Prop where
  pi : t.pi = s.pi
  wt : t.wt = s.wt
  rs : SchedulerKept s.rs t.rs
  fe : FocusKept s.fe t.fe
  ru : ReportsKept s.pi.setup.enable s.ru t.ru

theorem SchedulerKept.refl (r : RevisitScheduler) : SchedulerKept r r := ⟨id, id⟩

theorem SchedulerKept.trans {r r' r'' : RevisitScheduler} (h : SchedulerKept r r') (h' : SchedulerKept r' r'') :
    SchedulerKept r r'' := ⟨h'.bounded ∘ h.bounded, h'.restarts ∘ h.restarts⟩

theorem FocusKept.refl (f : FocusEngine) : FocusKept f f := ⟨id, id⟩

theorem FocusKept.trans {f f' f'' : FocusEngine} (h : FocusKept f f') (h' : FocusKept f' f'') : FocusKept f f'' :=
  ⟨h'.bounded ∘ h.bounded, h'.counts ∘ h.counts⟩

theorem ReportsKept.refl (n : EventSet) (r : ReportUnit) : ReportsKept n r r := fun _ _ h => h

theorem Work.refl (s : State) : Work s s := ⟨rfl, rfl, .refl _, .refl _, .refl _ _⟩

theorem Work.trans {s t u : State} (h : Work s t) (h' : Work t u) : Work s u where
  pi := h'.pi.trans h.pi
  wt := h'.wt.trans h.wt
  rs := h.rs.trans h'.rs
  fe := h.fe.trans h'.fe
  ru Q hQ hs := by
    have right := h'.ru Q hQ
    rw [h.pi] at right
    exact right (h.ru Q hQ hs)

/-- Work that changes the Revisit Scheduler and the Focus Engine alone. -/
theorem Work.of_blocks {s : State} {r : RevisitScheduler} {f : FocusEngine} (hr : SchedulerKept s.rs r) (hf : FocusKept s.fe f) :
    Work s { s with rs := r, fe := f } := ⟨rfl, rfl, hr, hf, .refl _ _⟩

theorem Work.of_scheduler {s : State} {r : RevisitScheduler} (hr : SchedulerKept s.rs r) : Work s { s with rs := r } :=
  ⟨rfl, rfl, hr, .refl _, .refl _ _⟩

theorem Work.of_focus {s : State} {f : FocusEngine} (hf : FocusKept s.fe f) : Work s { s with fe := f } :=
  ⟨rfl, rfl, .refl _, hf, .refl _ _⟩

/-! ## The Revisit Scheduler's operations -/

/-- A change that leaves the stores but the table, the stream and the bounded fields of the session. -/
theorem SchedulerKept.of_table {r r' : RevisitScheduler} (table : Sparse.wf 512 r.table = true → Sparse.wf 512 r'.table = true)
    (defects : r'.defects = r.defects) (corrections : r'.corrections = r.corrections) (cursor : r'.cursor = r.cursor)
    (remaining : r'.remaining = r.remaining) (recipe : r'.session.recipe = r.session.recipe)
    (selected : r'.session.tallies.selected = r.session.tallies.selected)
    (restarts : r'.session.tallies.restarts = r.session.tallies.restarts) : SchedulerKept r r' where
  bounded h :=
    { defects := defects ▸ h.defects
      table := table h.table
      corrections := corrections ▸ h.corrections
      stream := by rw [cursor, remaining]; exact h.stream
      selected := selected ▸ h.selected
      recipe := by rw [recipe]; exact h.recipe }
  restarts h := restarts ▸ h

theorem Sparse.lt_of_lookup {α : Type} {m : Sparse α} {n i : Nat} {a : α} (hm : Sparse.wf n m = true)
    (h : Sparse.lookup m i = some a) : i < n := ((Sparse.wf_iff n m).1 hm).2 _ (Sparse.mem_of_lookup h)

theorem wf_modEntry {r : RevisitScheduler} {n : Nat} (tag : Nat) (f : RevisitEntry → RevisitEntry)
    (h : Sparse.wf n r.table = true) : Sparse.wf n (modEntry tag f r).table = true := by
  unfold modEntry
  split
  · exact h
  case h_2 e stored => exact Sparse.wf_insert h (Sparse.lt_of_lookup h stored) _

theorem modEntry_kept (tag : Nat) (f : RevisitEntry → RevisitEntry) (r : RevisitScheduler) : SchedulerKept r (modEntry tag f r) :=
  .of_table (wf_modEntry tag f) (by simp) (by simp) (by simp) (by simp) (by simp) (by simp) (by simp)

theorem putEntry_kept {tag : Nat} (bound : SchedulerBounded r → tag < 512) (e : RevisitEntry) : SchedulerKept r (putEntry tag e r) where
  bounded h := { h with table := Sparse.wf_insert h.table (bound h) e }
  restarts := id

/-- Lists and timer are in no bound. -/
theorem lists_kept (r : RevisitScheduler) (queue lane : List Nat) (timer : StepTimer) :
    SchedulerKept r { r with queue := queue, lane := lane, timer := timer } := ⟨fun h => { h with }, id⟩

/-- A session changed in fields that are in no bound. -/
theorem session_kept {r : RevisitScheduler} {n : Session} (recipe : n.recipe = r.session.recipe)
    (selected : n.tallies.selected = r.session.tallies.selected)
    (restarts : n.tallies.restarts = r.session.tallies.restarts) : SchedulerKept r { r with session := n } :=
  .of_table id rfl rfl rfl rfl recipe selected restarts

theorem countFailure_selected (kind : RevisitKind) (reason : FailReason) (t : WaferTallies) :
    (countFailure kind reason t).selected = t.selected := by unfold countFailure; split <;> rfl

theorem countFailure_restarts (kind : RevisitKind) (reason : FailReason) (t : WaferTallies) :
    (countFailure kind reason t).restarts = t.restarts := by unfold countFailure; split <;> rfl

theorem countNotReviewed_selected (kind : RevisitKind) (n : Nat) (t : WaferTallies) :
    (countNotReviewed kind n t).selected = t.selected := by unfold countNotReviewed; split <;> rfl

theorem countNotReviewed_restarts (kind : RevisitKind) (n : Nat) (t : WaferTallies) :
    (countNotReviewed kind n t).restarts = t.restarts := by unfold countNotReviewed; split <;> rfl

theorem holdUp_le {limit n : Nat} : holdUp limit n ≤ limit := Nat.min_le_right _ _

theorem countRestart_kept (r : RevisitScheduler) : SchedulerKept r (modTallies countRestart r) where
  bounded h := { h with }
  restarts _ := holdUp_le

theorem recallOnJoin_kept (r : RevisitScheduler) : SchedulerKept r (recallOnJoin r) := by
  unfold recallOnJoin
  split
  · split_ifs
    · exact modEntry_kept _ _ r
    · exact .refl r
  · exact .refl r

theorem joinLane_kept (tag : Nat) (r : RevisitScheduler) : SchedulerKept r (joinLane tag r) :=
  (lists_kept r _ _ _).trans (recallOnJoin_kept _)

theorem dropQueued_kept (r : RevisitScheduler) : SchedulerKept r (dropQueued r) := by
  rw [dropQueued_eq]
  exact .of_table (fun h => Sparse.wf_mapValues unqueued h) rfl rfl rfl rfl rfl rfl rfl

theorem withdrawRecall_kept (r : RevisitScheduler) : SchedulerKept r (withdrawRecall r) := by
  unfold withdrawRecall
  split
  · split_ifs
    · exact modEntry_kept _ _ r
    · exact .refl r
  · exact .refl r

theorem endReview_kept (r : RevisitScheduler) : SchedulerKept r (endReview r) :=
  ((dropQueued_kept r).trans (withdrawRecall_kept _)).trans (session_kept rfl rfl rfl)

theorem alignSession_kept (x y : Int) (r : RevisitScheduler) : SchedulerKept r (alignSession x y r) := by
  unfold alignSession
  split_ifs
  · exact session_kept rfl rfl rfl
  · exact session_kept rfl rfl rfl

theorem promote_kept (tag : Nat) (r : RevisitScheduler) : SchedulerKept r (promote tag r) :=
  ((lists_kept r _ _ _).trans (modEntry_kept tag _ _)).trans (joinLane_kept tag _)

/-- The open tag is free and not greater than n + 2 (R78). -/
theorem openTag_spec {r : RevisitScheduler} {tag : Nat} (h : openTag r = some tag) :
    tag ≤ r.session.tallies.selected + 2 ∧ Sparse.lookup r.table tag = none := by
  obtain ⟨free, bound, -⟩ := List.find?_range_eq_some.1 h
  exact ⟨by have := List.mem_range.1 bound; omega, by simpa using free⟩

theorem addUrgent_kept {tag : Nat} (i : Nat) {r : RevisitScheduler} (free : openTag r = some tag) :
    SchedulerKept r (addUrgent tag i r) := by
  have bound : SchedulerBounded r → tag < 512 := fun h => by
    have := (openTag_spec free).1
    have := h.selected
    omega
  have counted : ∀ r : RevisitScheduler, SchedulerKept r (modTallies (fun t => { t with urgentAdded := t.urgentAdded + 1 }) r) :=
    fun r => session_kept rfl rfl rfl
  exact ((putEntry_kept bound _).trans (counted _)).trans (joinLane_kept tag _)

theorem wf_writeCorrection {m : Sparse (Int × Int)} (h : Sparse.wf 1024 m = true) {i : Nat} (hi : i < 1024) (x : Word) :
    Sparse.wf 1024 (writeCorrection m i x) = true := by
  unfold writeCorrection
  split_ifs
  · exact Sparse.wf_insert h hi _
  · exact Sparse.wf_erase h i

theorem wf_writeCorrections (xs : List Word) : ∀ {m : Sparse (Int × Int)} {i : Nat}, Sparse.wf 1024 m = true →
    i + xs.length ≤ 1024 → Sparse.wf 1024 (writeCorrections m i xs) = true := by
  induction xs with
  | nil => exact fun h _ => h
  | cons x rest ih =>
    intro m i h inside
    rw [List.length_cons] at inside
    exact ih (wf_writeCorrection h (by omega) x) (by omega)

theorem takeStream_kept (w : Line) (r : RevisitScheduler) : SchedulerKept r (takeStream w r) where
  bounded h :=
    have stream := h.stream
    { h with
      corrections := wf_writeCorrections _ h.corrections (by rw [streamEntries_length]; omega)
      stream := by simp only [takeStream]; omega }
  restarts := id

theorem countRetired_kept (kind : RevisitKind) (o : ResultOutcome) (c : Nat) (r : RevisitScheduler) :
    SchedulerKept r (countRetired kind o c r) := by
  unfold countRetired
  split_ifs
  · exact .refl r
  · cases o
    · exact session_kept rfl rfl rfl
    · exact session_kept rfl rfl rfl
    · exact .refl r

theorem admitCalibration_kept (r : RevisitScheduler) : SchedulerKept r (admitCalibration r) :=
  ((putEntry_kept (fun _ => by decide) _).trans (lists_kept _ _ _ _)).trans (recallOnJoin_kept _)

/-! ## The Focus Engine's operations -/

/-- A context made absent, or replaced by one on the grid whenever the one before was. -/
theorem context_kept {f : FocusEngine} {c : Option FocusContext}
    (grid : FocusBounded f → ∀ x, c = some x → OnGrid x.zone) : FocusKept f { f with context := c } :=
  ⟨fun h => ⟨h.zones, grid h⟩, fun h => ⟨h.stats, h.zones⟩⟩

theorem siteFree_kept (f : FocusEngine) : FocusKept f (siteFree f) := context_kept fun _ x hx => by cases hx

theorem modStats_kept {g : FocusStats → FocusStats} (f : FocusEngine) (hold : StatsHold f.stats → StatsHold (g f.stats)) :
    FocusKept f (modStats g f) := ⟨fun h => ⟨h.zones, h.context⟩, fun h => ⟨hold h.stats, h.zones⟩⟩

theorem countUnmeasured_kept (f : FocusEngine) : FocusKept f (countUnmeasured f) :=
  modStats_kept f fun h => { h with calUnmeasured := holdUp_le }

theorem countSuppressed_kept (f : FocusEngine) : FocusKept f (countSuppressed f) :=
  modStats_kept f fun h => { h with calSuppressed := holdUp_le }

theorem countCalRun_kept (f : FocusEngine) : FocusKept f (countCalRun f) := modStats_kept f fun h => { h with calRun := holdUp_le }

theorem countIfCalibration_kept (kind : RevisitKind) (f : FocusEngine) : FocusKept f (countIfCalibration kind f) := by
  unfold countIfCalibration
  split_ifs
  · exact countUnmeasured_kept f
  · exact .refl f

theorem zoneKey_lt {z : Nat × Nat} (h : OnGrid z) : zoneKey z < 144 := by
  obtain ⟨h1, h2⟩ := h
  simp only [zoneKey, Config.zonesPerAxis]
  omega

theorem foldZone_count_le (r : FocusRecipe) (measured residual : Int) (zone : Option Zone)
    (h : ∀ z, zone = some z → z.count ≤ 255) : (foldZone r measured residual zone).count ≤ 255 := by
  unfold foldZone
  split
  case h_1 z =>
    split_ifs
    · exact holdUp_le
    · exact h z rfl
    · exact Nat.le_of_ble_eq_true rfl
  · exact Nat.le_of_ble_eq_true rfl

theorem countResidual_holds {r : FocusRecipe} {residual : Int} {zone : Option Zone} {t : FocusStats} (h : StatsHold t) :
    StatsHold (countResidual r residual zone t) := by
  unfold countResidual
  split_ifs
  · exact { h with residualHigh := holdUp_le }
  · exact { h with residualLow := holdUp_le }
  · exact h
  · exact h

theorem feedRun_holds {residual : Int} {t : FocusStats} (h : StatsHold t) : StatsHold (feedRun residual t) := by
  unfold feedRun
  split_ifs
  · exact { h with runCount := Nat.zero_le _ }
  · simp only
    split_ifs
    · exact { h with runCount := holdUp_le }
    · exact { h with runCount := Nat.le_of_ble_eq_true rfl }
  · simp only
    split_ifs
    · exact { h with runCount := holdUp_le }
    · exact { h with runCount := Nat.le_of_ble_eq_true rfl }

theorem foldMeasurement_kept (r : FocusRecipe) (measured prediction : Int) {f : FocusEngine} {c : FocusContext}
    (hc : f.context = some c) : FocusKept f (foldMeasurement r c.zone measured prediction f) where
  bounded h := ⟨Sparse.wf_insert h.zones (zoneKey_lt (h.context c hc)) _, h.context⟩
  counts h :=
    { stats := feedRun_holds { countResidual_holds h.stats with accepted := holdUp_le }
      zones := fun z hz => by
        rcases Sparse.mem_insert hz with rfl | hz
        · exact foldZone_count_le _ _ _ _ fun z stored => h.zones _ (Sparse.mem_of_lookup stored)
        · exact h.zones z hz }

theorem demoteZone_count_le {z : Zone} (h : z.count ≤ 255) : (demoteZone z).count ≤ 255 := by
  unfold demoteZone
  split_ifs
  · exact Nat.zero_le _
  · exact h

theorem driftEvent_kept (f : FocusEngine) : FocusKept f (driftEvent f) where
  bounded h := ⟨Sparse.wf_mapValues _ h.zones, h.context⟩
  counts h :=
    { stats := { h.stats with driftEvents := holdUp_le, runCount := Nat.zero_le _ }
      zones := fun z hz => by
        obtain ⟨y, hy, rfl⟩ := List.mem_map.1 hz
        exact demoteZone_count_le (h.zones y hy) }

theorem statsHold_start : StatsHold FocusStats.start := by
  constructor <;> decide

theorem sessionStart_kept (r : FocusRecipe) (f : FocusEngine) : FocusKept f (sessionStart r f) where
  bounded h := by
    refine ⟨?_, h.context⟩
    simp only [sessionStart]
    split_ifs
    · exact Sparse.wf_mapValues _ h.zones
    · exact Sparse.wf_nil _
  counts _ := by
    refine ⟨statsHold_start, fun z hz => ?_⟩
    simp only [sessionStart] at hz
    split_ifs at hz
    · obtain ⟨y, -, rfl⟩ := List.mem_map.1 hz
      exact Nat.zero_le _
    · cases hz

/-! ## The work at the site -/

theorem raise_work (e : EventKind) (s : State) : Work s (raise e s) :=
  ⟨rfl, rfl, .refl _, .refl _, fun _ hQ h => hQ.raise _ _ e _ h⟩

theorem failEntry_work (tag : Nat) (reason : FailReason) (s : State) : Work s (failEntry tag reason s) := by
  unfold failEntry
  split
  · exact .refl s
  case h_2 e stored =>
    have put : ∀ r : RevisitScheduler, r.table = s.rs.table → SchedulerKept s.rs r →
        SchedulerKept s.rs (modTallies (countFailure e.kind reason) (putEntry tag { e with state := .failed } r)) :=
      fun r same h => (h.trans (putEntry_kept (fun h => Sparse.lt_of_lookup h.table (same ▸ stored)) _)).trans
        (session_kept rfl (countFailure_selected ..) (countFailure_restarts ..))
    have freed : FocusKept s.fe (if isSite e.state = true then siteFree s.fe else s.fe) := by
      split_ifs
      · exact siteFree_kept _
      · exact .refl _
    refine ⟨rfl, rfl, ?_, freed.trans (countIfCalibration_kept ..), fun _ hQ h => hQ.raise _ _ _ _ h⟩
    show SchedulerKept s.rs (modTallies _ (putEntry tag _ (if isSite e.state = true then stopTimer s.rs else s.rs)))
    split_ifs
    · exact put _ rfl (lists_kept _ _ _ _)
    · exact put _ rfl (.refl _)

theorem leaveSite_work (tag : Nat) (f : RevisitEntry → RevisitEntry) (s : State) : Work s (leaveSite tag f s) :=
  .of_blocks ((lists_kept s.rs _ _ _).trans (modEntry_kept tag f _)) (siteFree_kept _)

theorem retireEntry_work (tag : Nat) (s : State) : Work s (retireEntry tag s) := leaveSite_work tag _ s

theorem makeRecall_work (tag : Nat) (s : State) : Work s (makeRecall tag s) :=
  (leaveSite_work tag _ s).trans (.of_scheduler ((countRestart_kept _).trans (lists_kept _ _ _ _)))

theorem returnTag_kept (kind : RevisitKind) (tag : Nat) (r : RevisitScheduler) : SchedulerKept r (returnTag kind tag r) := by
  unfold returnTag
  split_ifs <;> exact lists_kept r _ _ _

theorem expireArrival_work (tag : Nat) (e : RevisitEntry) (s : State) : Work s (expireArrival tag e s) := by
  have counted : Work s { s with rs := modEntry tag (fun x => { x with attempts := e.attempts + 1 }) s.rs } :=
    .of_scheduler (modEntry_kept ..)
  simp only [expireArrival]
  split_ifs
  · exact (counted.trans (leaveSite_work tag _ _)).trans
      (.of_scheduler (session_kept rfl (countNotReviewed_selected ..) (countNotReviewed_restarts ..)))
  · exact (counted.trans (leaveSite_work tag _ _)).trans (.of_scheduler (returnTag_kept ..))
  · exact counted.trans (failEntry_work ..)

theorem expireSite_work (tag : Nat) (e : RevisitEntry) (s : State) : Work s (expireSite tag e s) := by
  unfold expireSite
  split
  · exact expireArrival_work tag e s
  · exact makeRecall_work tag s
  · exact failEntry_work ..
  · exact failEntry_work ..
  · exact failEntry_work ..
  all_goals exact .refl s

theorem arriveEntry_work (tag : Nat) (e : RevisitEntry) (x y : Int) (settled : Bool) (s : State) :
    Work s (arriveEntry tag e x y settled s) := by
  refine .of_blocks ((modEntry_kept tag _ s.rs).trans (lists_kept _ _ _ _)) (context_kept fun h z hz => ?_)
  obtain ⟨c, hc, rfl⟩ := Option.map_eq_some_iff.1 hz
  exact h.context c hc

theorem takeResult_work (tag : Nat) (kind : RevisitKind) (o : ResultOutcome) (c : Nat) (s : State) :
    Work s (takeResult tag kind o c s) := by
  have retired : Work s (retireByResult tag kind o c s) :=
    (retireEntry_work tag s).trans (.of_blocks (countRetired_kept ..) (countIfCalibration_kept ..))
  cases o
  · exact retired
  · exact retired
  · exact failEntry_work ..

/-! ## Dispatch (R100, R101) -/

theorem zoneAxis_lt (v : Int) : zoneAxis v < 12 := by
  simp only [zoneAxis, clamp]
  split_ifs <;> omega

/-- The candidate is the head of the lane, or of the queue when the lane is empty (R100). -/
theorem takeCandidate_eq_some {r popped : RevisitScheduler} {tag : Nat} (h : takeCandidate r = some (tag, popped)) :
    ∃ rest, (r.lane = tag :: rest ∧ popped = { r with lane := rest })
      ∨ (r.lane = [] ∧ r.queue = tag :: rest ∧ popped = { r with queue := rest }) := by
  unfold takeCandidate at h
  split at h
  case h_1 head rest lane =>
    cases h
    exact ⟨rest, .inl ⟨lane, rfl⟩⟩
  case h_2 lane =>
    split at h
    case h_1 head rest queue =>
      cases h
      exact ⟨rest, .inr ⟨lane, queue, rfl⟩⟩
    · cases h

theorem takeCandidate_kept {r popped : RevisitScheduler} {tag : Nat} (h : takeCandidate r = some (tag, popped)) :
    SchedulerKept r popped := by
  obtain ⟨rest, ⟨-, rfl⟩ | ⟨-, -, rfl⟩⟩ := takeCandidate_eq_some h <;> exact lists_kept r _ _ _

theorem dispatchEntry_work (tag : Nat) (kind : RevisitKind) (target : Int × Int) (uncorrected : Bool) (s : State) :
    Work s (dispatchEntry tag kind target uncorrected s) := by
  have numbered : SchedulerKept s.rs { s.rs with session := { s.rs.session with sequence := s.rs.session.sequence + 1 } } :=
    session_kept rfl rfl rfl
  refine .of_blocks ((numbered.trans (modEntry_kept ..)).trans (lists_kept ..)) (context_kept fun _ c hc => ?_)
  cases hc
  exact ⟨zoneAxis_lt _, zoneAxis_lt _⟩

theorem dispatchLoop_work (w : WaferRecipe) (fuel : Nat) (s : State) : Work s (dispatchLoop w fuel s) := by
  induction fuel generalizing s with
  | zero => exact .refl s
  | succ fuel ih =>
    simp only [dispatchLoop]
    split
    · exact .refl s
    case h_2 tag popped candidate =>
      have taken : Work s { s with rs := popped } := .of_scheduler (takeCandidate_kept candidate)
      split
      · exact taken.trans (ih _)
      · split
        · exact taken.trans (ih _)
        · split_ifs
          · exact (taken.trans (failEntry_work ..)).trans (ih _)
          · exact taken.trans (dispatchEntry_work ..)

theorem dispatchNext_work (s : State) : Work s (dispatchNext s) := by
  unfold dispatchNext
  split
  · exact .refl s
  · exact dispatchLoop_work ..

theorem actOnTarget_work (s : State) : Work s (actOnTarget s) := by
  unfold actOnTarget
  split_ifs
  · split
    · exact dispatchNext_work s
    · split_ifs
      · exact makeRecall_work _ s
      · exact .refl s
  · exact .refl s

/-! ## The focus step -/

theorem becomeFocused_work (tag : Nat) (z : Int) (flags : EntryFlags → EntryFlags) (s : State) :
    Work s (becomeFocused tag z flags s) := by
  unfold becomeFocused
  split
  case h_1 w c latched context =>
    split
    · exact failEntry_work ..
    · refine .of_blocks ((modEntry_kept tag _ s.rs).trans (lists_kept ..)) (context_kept fun h x hx => ?_)
      cases hx
      exact h.context c context
  · exact .refl s

/-- The focus context replaced by one for the same zone. -/
theorem sameZone_kept {f : FocusEngine} {c c' : FocusContext} (hc : f.context = some c) (zone : c'.zone = c.zone) :
    FocusKept f { f with context := some c' } := context_kept fun h x hx => by
  cases hx
  rw [zone]
  exact h.context c hc

theorem beginSweep_work (tag : Nat) (plan : SweepPlan) {c : FocusContext} {s : State} (hc : s.fe.context = some c) :
    Work s (beginSweep tag plan c s) :=
  .of_blocks ((modEntry_kept tag _ s.rs).trans (lists_kept ..)) (sameZone_kept hc rfl)

theorem decideStep_work (tag : Nat) (e : RevisitEntry) (s : State) : Work s (decideStep tag e s) := by
  unfold decideStep
  split
  case h_1 w c latched context =>
    have advanced : ∀ (i : Nat) (c' : FocusContext), c'.zone = c.zone →
        Work s { s with rs := setCadence i s.rs, fe := { s.fe with context := some c' } } := fun i c' zone =>
      .of_blocks (session_kept rfl rfl rfl) (sameZone_kept context zone)
    simp only
    split
    · exact .trans (advanced _ _ (by rfl)) (becomeFocused_work ..)
    · exact .trans (advanced _ _ (by rfl)) (beginSweep_work _ _ (by rfl))
    · exact .trans (advanced _ _ (by rfl)) (beginSweep_work _ _ (by rfl))
  · exact .refl s

theorem actOnPlan_work (s : State) : Work s (actOnPlan s) := by
  unfold actOnPlan
  split
  · split_ifs
    · exact decideStep_work ..
    · exact .refl s
  · exact .refl s

theorem requestCalibration_work (s : State) : Work s (requestCalibration s) := by
  unfold requestCalibration
  split_ifs
  · exact .of_scheduler (admitCalibration_kept _)
  · exact .of_focus (countSuppressed_kept _)

theorem drift_work (s : State) : Work s (drift s) :=
  ((Work.of_focus (driftEvent_kept s.fe)).trans (raise_work .drift _)).trans (requestCalibration_work _)

theorem foldSweep_work (r : FocusRecipe) (measured : Int) {c : FocusContext} {s : State} (hc : s.fe.context = some c) :
    Work s (foldSweep r c measured s) := by
  have folded := Work.of_focus (s := s) (foldMeasurement_kept r measured ((c.prediction.map Prod.fst).getD 0) hc)
  simp only [foldSweep]
  split_ifs
  · exact folded.trans (drift_work _)
  · exact folded

theorem actOnOk_work (w : WaferRecipe) (tag : Nat) (kind : RevisitKind) (raw : Int) {c : FocusContext} {s : State}
    (hc : s.fe.context = some c) : Work s (actOnOk w c tag kind raw s) := by
  have marked : Work s (markClamped tag (clampFocus w.focus raw != raw) s) := .of_scheduler (modEntry_kept ..)
  have folded := marked.trans (foldSweep_work w.focus (clampFocus w.focus raw) hc)
  simp only [actOnOk]
  split_ifs
  · exact (folded.trans (.of_focus (countCalRun_kept _))).trans (retireEntry_work tag _)
  · exact folded.trans (becomeFocused_work ..)

theorem fallBack_work (c : FocusContext) (tag : Nat) (kind : RevisitKind) (s : State) : Work s (fallBack c tag kind s) := by
  unfold fallBack
  split_ifs
  · exact (Work.of_focus (countUnmeasured_kept s.fe)).trans (retireEntry_work tag _)
  · exact becomeFocused_work ..

theorem sweepAgain_work (w : WaferRecipe) (centre : Int) (tag : Nat) (e : RevisitEntry) {c : FocusContext} {s : State}
    (hc : s.fe.context = some c) : Work s (sweepAgain w centre c tag e s) := by
  unfold sweepAgain
  split_ifs
  · exact .of_blocks (modEntry_kept ..) (sameZone_kept hc rfl)
  · exact fallBack_work ..

theorem actOnSweep_work (w : WaferRecipe) (p : SweepPlan) (tag : Nat) (e : RevisitEntry) (scores : List Nat) {c : FocusContext}
    {s : State} (hc : s.fe.context = some c) : Work s (actOnSweep w c p tag e scores s) := by
  unfold actOnSweep
  split
  · exact sweepAgain_work _ _ _ _ hc
  · simp only [actOnEdge]
    split_ifs
    · exact becomeFocused_work ..
    · exact sweepAgain_work _ _ _ _ hc
  · exact actOnOk_work _ _ _ _ hc

/-! ## Every move at the site is work -/

theorem SiteMove.work {s t : State} (h : SiteMove s t) : Work s t := by
  cases h
  case stands => exact .refl s
  case aligned x y => exact .of_scheduler (alignSession_kept ..)
  case ended => exact .of_scheduler (endReview_kept _)
  case promoted tag i e room found waits => exact .of_scheduler (promote_kept ..)
  case added tag i room free => exact .of_scheduler (addUrgent_kept i free)
  case load start count inside => exact .of_scheduler ⟨fun h => { h with stream := inside }, id⟩
  case streamed w => exact .of_scheduler (takeStream_kept ..)
  case defect i d => exact .of_scheduler ⟨fun h => { h with defects := Sparse.wf_insert h.defects i.isLt d }, id⟩
  case acked lost => exact ⟨rfl, rfl, .refl _, .refl _, fun _ hQ h => hQ.reportLost _ lost _ h⟩
  case capability m => exact .of_focus ⟨fun h => ⟨h.zones, h.context⟩, fun h => ⟨h.stats, h.zones⟩⟩
  case arrived tag e x y settled site => exact arriveEntry_work ..
  case swept w c p tag e scores site context => exact actOnSweep_work _ _ _ _ _ context
  case resulted tag e o c site => exact takeResult_work ..
  case targeted => exact actOnTarget_work s
  case planned => exact actOnPlan_work s
  case events => exact ⟨rfl, rfl, .refl _, .refl _, fun _ hQ h => hQ.clearEvents _ _ h⟩
  case expired tag e site => exact expireSite_work tag e s
  case timed timer => exact .of_scheduler (lists_kept ..)

end Sys2Proof.Machine
end

section
/-! PROOFS. Laws every step keeps: the attention line (R160), the FIFO, the counts and the stores (R11, R37, R69, R71, R150, R151), and
the bypassed part (R1). The laws of the stores and counts are proved block by block, move by move. -/

namespace Sys2Proof.Machine

/-! ## Completions, relocations and the close of a lot, by their parts -/

@[simp] theorem closeLot_pi (s : State) : (closeLot s).pi = s.pi := rfl
@[simp] theorem closeLot_rs (s : State) : (closeLot s).rs = s.rs := rfl
@[simp] theorem closeLot_fe (s : State) : (closeLot s).fe = s.fe := rfl

theorem chamberEntry_frame (c : CarrierSlot) (s : State) :
    (chamberEntry c s).pi = s.pi ∧ (chamberEntry c s).wt = s.wt ∧ (chamberEntry c s).ru = s.ru := by
  unfold chamberEntry
  split <;> exact ⟨rfl, rfl, rfl⟩

/-- The end of a session as one next state (R68). -/
theorem exitDone_eq (s : State) :
    exitDone s =
      { s with
        wt := countReviewed s.wt, rs := closeSession (dropQueued s.rs)
        ru := match s.rs.session.chamberSlot with
          | some c => raiseIn s.pi.setup.enable .waferDone
              (storeIn s.pi.setup.enable s.pi.setup.threshold true
                (waferReport c (slotOf s.wt c) (dropQueued s.rs).session s.fe) s.ru)
          | none => s.ru } := by
  simp only [exitDone]
  cases s.rs.session.chamberSlot <;> rfl

section
variable {P : State → Prop}

theorem restTest_keeps (close : ∀ s : State, atRest s.wt = true → P s → P (closeLot s)) {s : State} (h : P s) : P (restTest s) := by
  unfold restTest
  split_ifs with closes
  · exact close s closes.2 h
  · exact h

/-- A property that the notices and the close of a lot keep is kept by a completion that keeps it in its move. -/
theorem completeDone_keeps (close : ∀ s : State, atRest s.wt = true → P s → P (closeLot s))
    (entry : ∀ (c : CarrierSlot) (s : State), P s → P (chamberEntry c s)) (exit : ∀ s : State, P s → P (exitDone s))
    {k : HeldCommand} {s : State} (moved : P { s with wt := { applyMove k s.wt with channel := .idle } }) :
    P (completeDone k s) := by
  refine restTest_keeps close ?_
  unfold completionNotice
  split
  · exact entry _ _ moved
  · exact exit _ moved
  · exact moved

theorem relocateNotice_keeps (entry : ∀ (c : CarrierSlot) (s : State), P s → P (chamberEntry c s))
    (exit : ∀ s : State, P s → P (exitDone s)) (cancel : ∀ s : State, P s → P { s with rs := exitCancelled s.rs })
    (c : CarrierSlot) (v : Verb) (p : Place) (l : Location) {s : State} (h : P s) : P (relocateNotice c v p l s) := by
  unfold relocateNotice
  split
  · split_ifs
    · exact entry c s h
    · exact h
  · split_ifs
    · exact cancel s h
    · exact exit s h
    · exact h
  · exact h

end

/-! ## The Report Unit (R150 to R152, R160) -/

section
variable {Q : EventSet → ReportUnit → Prop}

/-- Reports are right in a state: a property of its enable set and its Report Unit. -/
abbrev ReportsRight (Q : EventSet → ReportUnit → Prop) (s : State) : Prop := Q s.pi.setup.enable s.ru

theorem KeptReports.recordPost (hQ : KeptReports Q) (slot : Nat) (tag : BitVec 8) (o : PostOutcome) (s : State)
    (h : ReportsRight Q s) : ReportsRight Q (recordPost slot tag o s) := by
  simp only [ReportsRight, Machine.recordPost, postFields_setup, refusalIn]
  split_ifs
  · exact h
  · exact hQ.raise _ _ _ _ (hQ.lastRefusal _ _ _ h)

theorem KeptReports.closeLot (hQ : KeptReports Q) (s : State) (h : ReportsRight Q s) : ReportsRight Q (closeLot s) :=
  hQ.raise _ _ _ _ (hQ.store _ _ _ _ _ (hQ.waferReportsLost _ _ h))

theorem KeptReports.chamberEntry (c : CarrierSlot) (s : State) (h : ReportsRight Q s) : ReportsRight Q (chamberEntry c s) := by
  obtain ⟨pi, -, ru⟩ := chamberEntry_frame c s
  rw [ReportsRight, pi, ru]
  exact h

theorem KeptReports.exitDone (hQ : KeptReports Q) (s : State) (h : ReportsRight Q s) : ReportsRight Q (exitDone s) := by
  simp only [ReportsRight, exitDone_eq]
  split
  · exact hQ.raise _ _ _ _ (hQ.store _ _ _ _ _ h)
  · exact h

/-- Every move keeps what the Report Unit's own operations keep. -/
theorem KeptReports.move (hQ : KeptReports Q) {s t : State} (m : Move s t) (h : ReportsRight Q s) : ReportsRight Q t := by
  have close : ∀ s : State, atRest s.wt = true → ReportsRight Q s → ReportsRight Q (Machine.closeLot s) :=
    fun s _ => hQ.closeLot s
  cases m with
  | site move =>
    have work := move.work
    rw [ReportsRight, work.pi]
    exact work.ru Q hQ h
  | setup u => exact hQ.raise _ _ _ _ h
  | clear => exact hQ.clearReports _
  | recipes | lotHeader | slotMarks | slotMap | closing | passed | exits => exact h
  | idRead c ok v =>
    simp only [applyIdRead]
    split_ifs
    · exact hQ.raise _ _ _ _ h
    · exact h
  | close rest => exact hQ.closeLot s h
  | done k held => exact completeDone_keeps close KeptReports.chamberEntry hQ.exitDone h
  | fault k n held =>
    rw [completeFault_eq]
    exact hQ.store _ _ _ _ _ (hQ.raise _ _ _ _ h)
  | relocate c v p l halted fits =>
    exact restTest_keeps close (relocateNotice_keeps KeptReports.chamberEntry hQ.exitDone (fun _ h => h) c v p l h)

/-- Every step keeps what the Report Unit's own operations keep. -/
theorem KeptReports.kept (hQ : KeptReports Q) : Kept (ReportsRight Q) :=
  .ofMoves (traffic := fun _ _ h => h) (queue := fun _ _ h => h) (buffer := fun _ _ _ h => h) (post := hQ.recordPost)
    (rewrite := fun _ _ h => hQ.raise _ _ _ _ (hQ.lastRewrite _ _ _ h)) (pop := fun n s h => hQ.pop _ n s.ru h)
    (reset := fun _ _ _ _ => hQ.reset) (move := fun _ _ m => hQ.move m)

end

/-- The attention line is at its condition (R160). -/
abbrev AttnAtCondition (n : EventSet) (r : ReportUnit) : Prop := r.attn = attnOf n r.pendingEvents

theorem attnRight_iff (s : State) : AttnRight s ↔ ReportsRight AttnAtCondition s := by
  have condition : attnOf s.pi.setup.enable s.ru.pendingEvents = true
      ↔ ∃ i, i < 12 ∧ s.ru.pendingEvents.getLsbD i ∧ s.pi.setup.enable.getLsbD i := by
    have apart : s.ru.pendingEvents &&& s.pi.setup.enable = 0 ↔ ∀ i, i < 12 → (s.ru.pendingEvents &&& s.pi.setup.enable).getLsbD i = false := by
      refine ⟨fun h i _ => by simp [h], fun h => BitVec.eq_of_getLsbD_eq fun i hi => by simpa using h i hi⟩
    rw [attnOf, bne_iff_ne, ne_eq, apart]
    simp
  rw [AttnRight, ← condition]
  exact Bool.eq_iff_iff.symm

theorem attnAtCondition_kept : KeptReports AttnAtCondition where
  raise _ _ _ _ _ := rfl
  store n threshold isWafer record r h := by
    simp only [storeIn]
    split_ifs
    · rfl
    · exact h
    all_goals rfl
  lastRefusal _ _ _ h := h
  lastRewrite _ _ _ h := h
  reportLost _ _ _ h := h
  waferReportsLost _ _ h := h
  pop _ _ _ h := h
  clearEvents _ _ _ := rfl
  clearReports _ := rfl
  reset := rfl

/-- Settles O57: every change of the pending or enable set brings the line to its condition, and nothing else moves the line. -/
theorem attnFollowsItsCondition : Obligations.AttnFollowsItsCondition := by
  intro s t h run
  rw [attnRight_iff] at h ⊢
  exact attnAtCondition_kept.kept.step s t h run

theorem fifoBounded_kept : KeptReports fun _ r => r.fifo.length ≤ 512 where
  raise _ _ _ _ h := h
  store n threshold isWafer record r h := by
    by_cases room : record.length ≤ 512 - r.fifo.length
    · have stored : r.fifo.length + record.length ≤ 512 := by omega
      by_cases crossing : Crosses threshold record r
      · rw [storeIn_of_crossing _ _ room crossing]
        simpa using stored
      · rw [storeIn_of_not_crossing _ _ room crossing]
        simpa using stored
    · rw [storeIn_of_no_room _ _ (not_le.1 room)]
      exact h
  lastRefusal _ _ _ h := h
  lastRewrite _ _ _ h := h
  reportLost _ _ _ h := h
  waferReportsLost _ _ h := h
  pop n k r h := by
    rw [List.length_drop]
    omega
  clearEvents _ _ h := h
  clearReports _ := Nat.zero_le _
  reset := Nat.zero_le _

theorem reportCounts_kept : KeptReports fun _ r => ReportCounts r where
  raise _ _ _ _ h := ⟨h.lost, h.waferReportsLost⟩
  store n threshold isWafer record r h := by
    simp only [storeIn]
    split_ifs
    · exact ⟨h.lost, h.waferReportsLost⟩
    · exact ⟨h.lost, h.waferReportsLost⟩
    · exact ⟨holdUp_le, holdUp_le⟩
    · exact ⟨holdUp_le, h.waferReportsLost⟩
  lastRefusal _ _ _ h := ⟨h.lost, h.waferReportsLost⟩
  lastRewrite _ _ _ h := ⟨h.lost, h.waferReportsLost⟩
  reportLost _ _ _ h := ⟨h.lost, h.waferReportsLost⟩
  waferReportsLost _ _ h := ⟨h.lost, Nat.zero_le _⟩
  pop _ _ _ h := ⟨h.lost, h.waferReportsLost⟩
  clearEvents _ _ h := ⟨h.lost, h.waferReportsLost⟩
  clearReports _ := ⟨Nat.zero_le _, Nat.zero_le _⟩
  reset := ⟨Nat.zero_le _, Nat.zero_le _⟩

/-! ## The Path Interface and the Wafer Tracker (R11, R37) -/

/-- What a move leaves of the Path Interface: the straps, the last post, and a refusal count no greater than before. -/
theorem Move.interface {s t : State} (m : Move s t) :
    t.pi.window = s.pi.window ∧ t.pi.bypass = s.pi.bypass ∧ t.pi.refusals ≤ s.pi.refusals := by
  have same : ∀ t : State, t.pi = s.pi →
      t.pi.window = s.pi.window ∧ t.pi.bypass = s.pi.bypass ∧ t.pi.refusals ≤ s.pi.refusals := fun t h => by simp [h]
  have close : ∀ t : State, atRest t.wt = true → t.pi = s.pi → (closeLot t).pi = s.pi := fun _ _ h => h
  have entry : ∀ (c : CarrierSlot) (t : State), t.pi = s.pi → (chamberEntry c t).pi = s.pi :=
    fun c t h => (chamberEntry_frame c t).1.trans h
  have exit : ∀ t : State, t.pi = s.pi → (exitDone t).pi = s.pi := fun t h => by rw [exitDone_eq]; exact h
  cases m with
  | site move => exact same _ move.work.pi
  | setup u => exact ⟨rfl, rfl, le_rfl⟩
  | clear => exact ⟨rfl, rfl, Nat.zero_le _⟩
  | recipes | lotHeader | slotMarks | slotMap | closing | passed | exits | close => exact ⟨rfl, rfl, le_rfl⟩
  | idRead c ok v =>
    simp only [applyIdRead]
    split_ifs <;> exact ⟨rfl, rfl, le_rfl⟩
  | done k held => exact same _ (completeDone_keeps close entry exit rfl)
  | fault k n held => exact same _ (by rw [completeFault_eq])
  | relocate c v p l halted fits =>
    exact same _ (restTest_keeps close (relocateNotice_keeps entry exit (fun _ h => h) c v p l rfl))

theorem refusals_kept : Kept fun s => s.pi.refusals ≤ 65535 :=
  .ofMoves (traffic := fun _ _ h => h) (queue := fun _ _ h => h) (buffer := fun _ _ _ h => h)
    (post := fun slot tag o s h => by
      simp only [recordPost, postFields]
      split_ifs
      · exact h
      · exact holdUp_le)
    (rewrite := fun _ _ h => h) (pop := fun _ _ h => h) (reset := fun _ _ _ _ => Nat.zero_le _)
    (move := fun _ _ m h => m.interface.2.2.trans h)

theorem notVisitedCount_le (t : WaferTracker) : notVisitedCount t ≤ 25 := by
  simpa [notVisitedCount] using List.length_filter_le (fun r : SlotRecord => r.condition == .present && !r.visited) t.slots.toList

theorem TrackerCounts.of_tallies {t t' : WaferTracker} (h : TrackerCounts t) (same : t'.tallies = t.tallies) : TrackerCounts t' := by
  obtain ⟨reviewed, faults, mismatches, present, notVisited⟩ := h
  rw [← same] at reviewed faults mismatches present notVisited
  exact ⟨reviewed, faults, mismatches, present, notVisited⟩

theorem trackerCounts_zero {t : WaferTracker} (h : t.tallies = LotTallies.zero) : TrackerCounts t := by
  constructor <;> rw [h] <;> exact Nat.zero_le _

theorem closeLot_trackerCounts (s : State) (h : TrackerCounts s.wt) : TrackerCounts (closeLot s).wt :=
  { reviewed := h.reviewed, faults := h.faults, mismatches := h.mismatches, present := h.present
    notVisited := notVisitedCount_le _ }

theorem applyMove_tallies (k : HeldCommand) (t : WaferTracker) : (applyMove k t).tallies = t.tallies := by
  simp only [applyMove]
  split <;> rfl

theorem relocateWafer_tallies (c : CarrierSlot) (l : Location) (t : WaferTracker) : (relocateWafer c l t).tallies = t.tallies := by
  cases l <;> rfl

theorem exitDone_trackerCounts (s : State) (h : TrackerCounts s.wt) : TrackerCounts (exitDone s).wt := by
  rw [exitDone_eq]
  exact { reviewed := holdUp_le, faults := h.faults, mismatches := h.mismatches, present := h.present, notVisited := h.notVisited }

/-- The tallies through every move. -/
theorem Move.trackerCounts {s t : State} (m : Move s t) (h : TrackerCounts s.wt) : TrackerCounts t.wt := by
  have close : ∀ s : State, atRest s.wt = true → TrackerCounts s.wt → TrackerCounts (closeLot s).wt :=
    fun s _ => closeLot_trackerCounts s
  have entry : ∀ (c : CarrierSlot) (s : State), TrackerCounts s.wt → TrackerCounts (chamberEntry c s).wt :=
    fun c s h => (chamberEntry_frame c s).2.1.symm ▸ h
  cases m with
  | site move => exact move.work.wt.symm ▸ h
  | setup | recipes => exact h
  | clear => exact trackerCounts_zero rfl
  | lotHeader => exact trackerCounts_zero rfl
  | slotMarks | closing | passed | exits => exact h.of_tallies rfl
  | slotMap m loading =>
    have present : (m.toList.filter (· == Condition.present)).length ≤ 25 := by
      simpa using List.length_filter_le (· == Condition.present) m.toList
    exact { reviewed := h.reviewed, faults := h.faults, mismatches := h.mismatches, present := present, notVisited := h.notVisited }
  | idRead c ok v =>
    simp only [applyIdRead]
    split_ifs
    · exact { reviewed := h.reviewed, faults := h.faults, mismatches := holdUp_le, present := h.present, notVisited := h.notVisited }
    · exact h.of_tallies rfl
  | close rest => exact closeLot_trackerCounts s h
  | done k held =>
    exact completeDone_keeps (P := fun s => TrackerCounts s.wt) close entry exitDone_trackerCounts
      (h.of_tallies (applyMove_tallies k s.wt))
  | fault k n held =>
    rw [completeFault_eq, faultWafer_eq]
    exact { reviewed := h.reviewed, faults := Nat.min_le_right _ _, mismatches := h.mismatches, present := h.present
            notVisited := h.notVisited }
  | relocate c v p l halted fits =>
    exact restTest_keeps (P := fun s => TrackerCounts s.wt) close
      (relocateNotice_keeps (P := fun s => TrackerCounts s.wt) entry exitDone_trackerCounts (fun _ h => h) c v p l
        (h.of_tallies (relocateWafer_tallies c l s.wt)))

theorem trackerCounts_kept : Kept fun s => TrackerCounts s.wt :=
  .ofMoves (traffic := fun _ _ h => h) (queue := fun _ _ h => h) (buffer := fun _ _ _ h => h) (post := fun _ _ _ _ h => h)
    (rewrite := fun _ _ h => h) (pop := fun _ _ h => h) (reset := fun _ _ _ _ => trackerCounts_zero rfl)
    (move := fun _ _ m => m.trackerCounts)

/-! ## The Revisit Scheduler and the Focus Engine (R69, R71, R77, R88, R130, R136, R138) -/

/-- Selection's step for one index keeps the stores, the cap and the tags below the cap (R76). -/
theorem selectIndex_bounded {m : SamplingRecipe} (capped : m.cap ≤ 508) (i : Nat) {r : RevisitScheduler} (h : SchedulerBounded r) :
    SchedulerBounded (selectIndex m r i) := by
  have counted : ∀ f : WaferTallies → WaferTallies, (f r.session.tallies).selected = r.session.tallies.selected →
      SchedulerBounded (modTallies f r) := fun f same => { h with selected := same.trans_le h.selected }
  simp only [selectIndex]
  split
  · exact counted _ rfl
  · split_ifs with skipped full
    · exact counted _ rfl
    · exact counted _ rfl
    · have room : r.session.tallies.selected < 508 := by omega
      exact { h with table := Sparse.wf_insert h.table (by omega) _, selected := room }

theorem runSelection_bounded {m : SamplingRecipe} (capped : m.cap ≤ 508) (start stop : Nat) {r : RevisitScheduler}
    (h : SchedulerBounded r) : SchedulerBounded (runSelection m start stop r) := by
  have emptied : SchedulerBounded { r with table := [], queue := [] } := { h with table := Sparse.wf_nil _ }
  unfold runSelection
  exact List.foldlRecOn _ _ emptied fun _ hr i _ => selectIndex_bounded capped i hr

theorem selectIndex_restarts (m : SamplingRecipe) (r : RevisitScheduler) (i : Nat) :
    (selectIndex m r i).session.tallies.restarts = r.session.tallies.restarts := by
  simp only [selectIndex]
  split
  · rfl
  · split_ifs <;> rfl

theorem runSelection_restarts (m : SamplingRecipe) (start stop : Nat) (r : RevisitScheduler) :
    (runSelection m start stop r).session.tallies.restarts = r.session.tallies.restarts :=
  List.foldlRecOn (motive := fun x : RevisitScheduler => x.session.tallies.restarts = r.session.tallies.restarts) _ _ rfl
    fun _ h i _ => (selectIndex_restarts m _ i).trans h

/-- What a move keeps of the Revisit Scheduler's bounds: the cap of the recipes a session may latch is part of them. -/
structure SchedulerMove (s t : State) : Prop where
  capped : RecipeCapped s.pi → RecipeCapped t.pi
  bounded : RecipeCapped s.pi → SchedulerBounded s.rs → SchedulerBounded t.rs
  restarts : s.rs.session.tallies.restarts ≤ 65535 → t.rs.session.tallies.restarts ≤ 65535

theorem SchedulerMove.of_kept {s t : State} (pi : t.pi = s.pi) (h : SchedulerKept s.rs t.rs) : SchedulerMove s t :=
  ⟨fun capped => by rwa [pi], fun _ => h.bounded, h.restarts⟩

theorem SchedulerMove.then {s t : State} (m : SchedulerMove s t) {u : State} (pi : u.pi = t.pi) (h : SchedulerKept t.rs u.rs) :
    SchedulerMove s u :=
  ⟨fun capped => by rw [pi]; exact m.capped capped, fun capped bounded => h.bounded (m.bounded capped bounded),
    fun restarts => h.restarts (m.restarts restarts)⟩

theorem chamberEntry_schedulerMove {s t : State} (m : SchedulerMove s t) (c : CarrierSlot) : SchedulerMove s (chamberEntry c t) := by
  unfold chamberEntry
  split
  · exact m
  case h_2 w latched =>
    have capped : RecipeCapped s.pi → w.sampling.cap ≤ 508 := by
      intro capped
      unfold latchRecipe at latched
      split at latched
      case h_1 f r g focus sampling geometry =>
        cases latched
        exact m.capped capped r sampling
      · cases latched
    refine ⟨m.capped, fun hc hb => ?_, fun _ => ?_⟩
    · have opened : SchedulerBounded { t.rs with session := openedSession c w t.rs.session } :=
        { m.bounded hc hb with
          selected := Nat.zero_le _
          recipe := fun w' hw => by cases hw; exact capped hc }
      exact { runSelection_bounded (capped hc) _ _ opened with }
    · show (runSelection w.sampling _ _ _).session.tallies.restarts ≤ 65535
      rw [runSelection_restarts]
      exact Nat.zero_le _

theorem closeSession_kept (r : RevisitScheduler) : SchedulerKept r (closeSession r) :=
  .of_table (fun _ => Sparse.wf_nil _) rfl rfl rfl rfl rfl rfl rfl

theorem exitDone_schedulerMove {s t : State} (m : SchedulerMove s t) : SchedulerMove s (exitDone t) := by
  rw [exitDone_eq]
  exact m.then rfl ((dropQueued_kept _).trans (closeSession_kept _))

theorem exitCancelled_kept (r : RevisitScheduler) : SchedulerKept r (exitCancelled r) := by
  unfold exitCancelled
  split
  · exact .refl r
  · exact session_kept rfl rfl rfl

/-- The Revisit Scheduler's bounds through every move. -/
theorem Move.scheduler {s t : State} (m : Move s t) : SchedulerMove s t := by
  have close : ∀ u : State, atRest u.wt = true → SchedulerMove s u → SchedulerMove s (closeLot u) :=
    fun u _ h => h.then rfl (.refl _)
  have same : SchedulerMove s s := .of_kept rfl (.refl _)
  have entry : ∀ (c : CarrierSlot) (u : State), SchedulerMove s u → SchedulerMove s (chamberEntry c u) :=
    fun c _ h => chamberEntry_schedulerMove h c
  have exit : ∀ u : State, SchedulerMove s u → SchedulerMove s (exitDone u) := fun _ h => exitDone_schedulerMove h
  cases m with
  | site move => exact .of_kept move.work.pi move.work.rs
  | setup => exact ⟨id, fun _ => id, id⟩
  | slotMarks | slotMap | closing | passed => exact same.then rfl (.refl _)
  | clear =>
    exact ⟨id, fun _ h => ⟨Sparse.wf_nil _, Sparse.wf_nil _, h.corrections, Nat.zero_le _, Nat.zero_le _, fun _ hw => by cases hw⟩,
      fun _ => Nat.zero_le _⟩
  | recipes f m g capped =>
    refine ⟨fun h r hr => ?_, fun _ => id, id⟩
    rcases capped with rfl | ⟨r', rfl, cap⟩
    · exact h r hr
    · cases hr
      exact cap
  | lotHeader check w free => exact .of_kept rfl ⟨fun h => { h with defects := Sparse.wf_nil _ }, id⟩
  | exits k lot meets => exact .of_kept rfl (session_kept rfl rfl rfl)
  | idRead c ok v =>
    simp only [applyIdRead]
    split_ifs <;> exact same.then rfl (.refl _)
  | close rest => exact close s rest same
  | done k held => exact completeDone_keeps close entry exit (same.then rfl (.refl _))
  | fault k n held =>
    rw [completeFault_eq]
    exact same.then rfl (.refl _)
  | relocate c v p l halted fits =>
    exact restTest_keeps close (relocateNotice_keeps entry exit (fun u h => h.then rfl (exitCancelled_kept _)) c v p l
      (same.then rfl (.refl _)))

theorem chamberEntry_focusKept (c : CarrierSlot) (s : State) : FocusKept s.fe (chamberEntry c s).fe := by
  unfold chamberEntry
  split
  · exact .refl _
  · exact sessionStart_kept _ _

theorem focusBounded_empty {f : FocusEngine} (zones : f.zones = []) (context : f.context = none) : FocusBounded f :=
  ⟨by rw [zones]; exact Sparse.wf_nil _, fun c hc => by rw [context] at hc; cases hc⟩

theorem focusCounts_empty {f : FocusEngine} (zones : f.zones = []) (stats : f.stats = FocusStats.start) : FocusCounts f :=
  ⟨by rw [stats]; exact statsHold_start, fun z hz => by rw [zones] at hz; cases hz⟩

/-- The Focus Engine's bounds through every move. -/
theorem Move.focus {s t : State} (m : Move s t) : FocusKept s.fe t.fe := by
  have close : ∀ u : State, atRest u.wt = true → FocusKept s.fe u.fe → FocusKept s.fe (closeLot u).fe := fun _ _ h => h
  have entry : ∀ (c : CarrierSlot) (u : State), FocusKept s.fe u.fe → FocusKept s.fe (chamberEntry c u).fe :=
    fun c u h => h.trans (chamberEntry_focusKept c u)
  have exit : ∀ u : State, FocusKept s.fe u.fe → FocusKept s.fe (exitDone u).fe := fun u h => by rw [exitDone_eq]; exact h
  cases m with
  | site move => exact move.work.fe
  | clear => exact ⟨fun _ => focusBounded_empty rfl rfl, fun _ => focusCounts_empty rfl rfl⟩
  | setup | recipes | lotHeader | slotMarks | slotMap | closing | close | passed | exits => exact .refl _
  | idRead c ok v =>
    simp only [applyIdRead]
    split_ifs <;> exact .refl _
  | done k held => exact completeDone_keeps (P := fun u => FocusKept s.fe u.fe) close entry exit (.refl _)
  | fault k n held =>
    rw [completeFault_eq]
    exact .refl _
  | relocate c v p l halted fits =>
    exact restTest_keeps (P := fun u => FocusKept s.fe u.fe) close
      (relocateNotice_keeps (P := fun u => FocusKept s.fe u.fe) entry exit (fun _ h => h) c v p l (.refl _))

theorem restarts_kept : Kept fun s => s.rs.session.tallies.restarts ≤ 65535 :=
  .ofMoves (traffic := fun _ _ h => h) (queue := fun _ _ h => h) (buffer := fun _ _ _ h => h) (post := fun _ _ _ _ h => h)
    (rewrite := fun _ _ h => h) (pop := fun _ _ h => h) (reset := fun _ _ _ _ => Nat.zero_le _)
    (move := fun _ _ m => m.scheduler.restarts)

theorem focusCounts_kept : Kept fun s => FocusCounts s.fe :=
  .ofMoves (traffic := fun _ _ h => h) (queue := fun _ _ h => h) (buffer := fun _ _ _ h => h) (post := fun _ _ _ _ h => h)
    (rewrite := fun _ _ h => h) (pop := fun _ _ h => h) (reset := fun _ _ _ _ => focusCounts_empty rfl rfl)
    (move := fun _ _ m => m.focus.counts)

theorem schedulerBounded_reset : SchedulerBounded RevisitScheduler.reset :=
  ⟨Sparse.wf_nil _, Sparse.wf_nil _, Sparse.wf_nil _, Nat.zero_le _, Nat.zero_le _, fun _ h => by cases h⟩

theorem storesBounded_kept : Kept fun s => RecipeCapped s.pi ∧ SchedulerBounded s.rs ∧ FocusBounded s.fe :=
  .ofMoves (traffic := fun _ _ h => h) (queue := fun _ _ h => h) (buffer := fun _ _ _ h => h) (post := fun _ _ _ _ h => h)
    (rewrite := fun _ _ h => h) (pop := fun _ _ h => h)
    (reset := fun _ _ _ _ => ⟨(by rintro _ ⟨⟩), schedulerBounded_reset, focusBounded_empty rfl rfl⟩)
    (move := fun _ _ m ⟨capped, scheduler, focus⟩ =>
      ⟨m.scheduler.capped capped, m.scheduler.bounded capped scheduler, m.focus.bounded focus⟩)

/-- Settles O58: the FIFO and the lost counts by the Report Unit's operations, the other counts and the stores block by block. -/
theorem storesAndCountsStayInBounds : Obligations.StoresAndCountsStayInBounds := by
  intro s t run
  refine ⟨fun h => fifoBounded_kept.kept.step s t h run, fun h => ?counts, fun h => ?stores⟩
  case counts =>
    rw [countsHold_iff] at h ⊢
    obtain ⟨refusals, reports, tracker, restarts, focus⟩ := h
    exact ⟨refusals_kept.step s t refusals run, reportCounts_kept.kept.step s t reports run, trackerCounts_kept.step s t tracker run,
      restarts_kept.step s t restarts run, focusCounts_kept.step s t focus run⟩
  case stores =>
    rw [storesBounded_iff] at h ⊢
    exact storesBounded_kept.step s t h run

/-! ## The bypassed part (R1) -/

/-- Treating a slot leaves the straps as they were sampled. -/
def SameStraps (s t : State) : Prop := t.pi.window = s.pi.window ∧ t.pi.bypass = s.pi.bypass

theorem SameStraps.refl (s : State) : SameStraps s s := ⟨rfl, rfl⟩

theorem SameStraps.trans {s t u : State} (h : SameStraps s t) (h' : SameStraps t u) : SameStraps s u :=
  ⟨h'.1.trans h.1, h'.2.trans h.2⟩

theorem Move.straps {s t : State} (m : Move s t) : SameStraps s t := ⟨m.interface.1, m.interface.2.1⟩

theorem judgePost_move (slot : StagedSlot) (permitted : Bool) (u : StagingBuffer) (s : State) :
    Move s (judgePost (ownersOf slot) permitted u s).2 := by
  unfold judgePost
  split_ifs
  · split
    · exact .stands s
    · split
      · exact .stands s
      case h_2 owned =>
        split_ifs
        · exact move_owner owned _ s
        · exact .stands s
  · exact .stands s

theorem judgeMailbox_straps (ok : Bool) (b : WriteBurst) (tag : BitVec 8) (u : StagingBuffer) (s : State) :
    SameStraps s (judgeMailbox judgeCommand ok b tag u s) := by
  unfold judgeMailbox
  split_ifs
  · split
    case h_1 passed => exact (move_judge passed).straps
    · exact .refl s
  all_goals exact .refl s

theorem treatSlot_straps (role : Role) (b : WriteBurst) (n : Nat) (s : State) : SameStraps s (treatSlot deciders role b n s) := by
  unfold treatSlot
  split
  · split_ifs
    · unfold mailboxStep
      simp only
      split_ifs
      · exact judgeMailbox_straps ..
      · exact .refl s
      · exact .refl s
    · unfold stagedStep
      simp only
      split_ifs
      · exact (judgePost_move ..).straps
      · exact .refl s
      · exact .refl s
  · split
    · unfold bulkStep
      simp only
      split_ifs
      · unfold judgeBulk
        split_ifs
        · exact (move_bulkOwner ..).straps
        · exact .refl s
        · exact .refl s
      · exact .refl s
    · exact .refl s

theorem treatSlots_straps (role : Role) (b : WriteBurst) (l : List Nat) (s : State) :
    SameStraps s (l.foldl (fun t n => treatSlot deciders role b n t) s) :=
  List.foldlRecOn _ _ (.refl s) fun _ h n _ => h.trans (treatSlot_straps role b n _)

theorem writeStep_straps (b : WriteBurst) (s : State) : SameStraps s (writeStep deciders b s) := by
  unfold writeStep
  simp only
  split_ifs
  · exact .refl s
  · exact treatSlots_straps ..

theorem readStep_straps (first count : Nat) (r : ReadBurst) (s : State) : SameStraps s (readStep serveTable first count r s) := by
  unfold readStep
  split
  · exact .refl s
  · exact .refl s
  · exact .refl s
  · exact (move_serve ..).straps

/-- A command is a pin reset, carries a write or a read burst, or is an expiry. -/
theorem instr_cases (c : Instr) :
    (∃ wb bypass, c = .pinReset wb bypass) ∨ (∃ b, writeTarget c = some b) ∨ (∃ r, readTarget c = some r)
      ∨ ∃ states, ∀ s, exec c s = .next (expireIn states (idlePorts s)) := by
  cases c
  case pinReset wb bypass => exact .inl ⟨wb, bypass, rfl⟩
  case arrivalStepExpiry | recallExpiry | focusStepExpiry | imageStepExpiry => exact .inr (.inr (.inr ⟨_, fun _ => rfl⟩))
  case targetRead | planRead | eventRead | reportWindowRead | straddlingRead => exact .inr (.inr (.inl ⟨_, rfl⟩))
  all_goals exact .inr (.inl ⟨_, rfl⟩)

/-- Every block but the queue, the ports and the sampled window at its pin-reset value. -/
abbrev AtPinReset (s : State) : Prop :=
  s.pi = PathInterface.reset s.pi.window true ∧ s.wt = WaferTracker.reset ∧ s.rs = RevisitScheduler.reset
    ∧ s.fe = FocusEngine.reset ∧ s.ru = ReportUnit.reset

/-- No command but a pin reset moves a bypassed part: its bursts pass, and no timer runs (R1). -/
theorem exec_bypassed {c : Instr} {s t : State} (bypassed : s.pi.bypass = true) (h : AtPinReset s) (run : exec c s = .next t) :
    BypassHolds t := by
  have outside : ∀ h : BurstHeader, ¬ Decoded h s := fun h d => by simp [d.1] at bypassed
  obtain ⟨wb, bypass, rfl⟩ | ⟨b, hb⟩ | ⟨r, hr⟩ | ⟨states, he⟩ := instr_cases c
  · cases run
    rintro rfl
    exact ⟨rfl, rfl, rfl, rfl, rfl⟩
  · rw [exec_write s hb, writeStep_outside _ _ _ (outside _)] at run
    cases run
    exact fun _ => h
  · obtain ⟨first, count, hr⟩ := exec_read s hr
    rw [hr, readStep_memory _ _ _ _ _ (readPlace_outside (outside _))] at run
    cases run
    exact fun _ => h
  · have free : siteEntry (idlePorts s).rs = none := by
      rw [idlePorts_rs, h.2.2.1]
      rfl
    rw [he, expireIn, free] at run
    cases run
    exact fun _ => h

/-- A part that was not sampled in bypass is bypassed only by a pin reset. -/
theorem exec_active {c : Instr} {s t : State} (active : s.pi.bypass = false) (run : exec c s = .next t) : BypassHolds t := by
  have stays : SameStraps s t → BypassHolds t := fun same bypassed => by rw [same.2, active] at bypassed; cases bypassed
  obtain ⟨wb, bypass, rfl⟩ | ⟨b, hb⟩ | ⟨r, hr⟩ | ⟨states, he⟩ := instr_cases c
  · cases run
    rintro rfl
    exact ⟨rfl, rfl, rfl, rfl, rfl⟩
  · rw [exec_write s hb] at run
    cases run
    exact stays (writeStep_straps b s)
  · obtain ⟨first, count, hr⟩ := exec_read s hr
    rw [hr] at run
    cases run
    exact stays (readStep_straps ..)
  · rw [he] at run
    cases run
    exact stays (move_expireIn states (idlePorts s)).straps

/-- Settles O56: bursts pass a bypassed part and its timer is stopped; an active part's straps stand but at a pin reset. -/
theorem bypassedPartStands : Obligations.BypassedPartStands := by
  intro s t h run
  cases bypassed : s.pi.bypass with
  | true =>
    have reset : AtPinReset s := h bypassed
    unfold step at run
    split at run
    · have stopped : tick s = s := by rw [tick, reset.2.2.1]; rfl
      rw [stopped] at run
      cases run
      exact h
    case h_2 rest _ => exact exec_bypassed (s := s.withPending rest) bypassed reset run
  | false =>
    unfold step at run
    split at run
    · cases run
      intro still
      rw [(move_tick s).straps.2, bypassed] at still
      cases still
    case h_2 rest _ => exact exec_active (s := s.withPending rest) bypassed run

end Sys2Proof.Machine
end

section
/-! PROOFS. Places, locations, the lot and the channel agree after every step (R26, R39, R41, R46 to R52). -/

namespace Sys2Proof.Machine

/-! ## Places and locations (R39) -/

/-- Each place holds exactly the wafer whose location names it. -/
structure PlacesHold (loc : CarrierSlot → Location) (robot aligner chamber : Option CarrierSlot) : Prop where
  robot : ∀ c, robot = some c ↔ loc c = .onRobot
  aligner : ∀ c, aligner = some c ↔ loc c = .onAligner
  chamber : ∀ c, chamber = some c ↔ loc c = .inChamber

/-- Where each wafer is. -/
def locations (t : WaferTracker) (c : CarrierSlot) : Location := (slotOf t c).location

/-- The channel's wafer is where its command takes it from, or is lost (R41, R46, R50). -/
def ChannelAgrees (t : WaferTracker) : Channel → Prop
  | .idle => True
  | .outstanding k => locations t k.wafer = commandFrom k.verb k.place ∧ commandClear k.verb k.place t
  | .halted c _ _ => locations t c = .unknown

/-- `PlacesAgree` of the Wafer Tracker alone. -/
structure TrackerAgrees (t : WaferTracker) : Prop where
  places : PlacesHold (locations t) t.robot t.aligner t.chamber
  lot : t.lot = .noLot ∨ t.lot = .loading → t.channel = .idle ∧ t.robot = none ∧ t.aligner = none ∧ t.chamber = none
  channel : ChannelAgrees t t.channel

theorem placesAgree_iff (s : State) : PlacesAgree s ↔ TrackerAgrees s.wt := by
  have channel : ChannelAgrees s.wt s.wt.channel ↔ (match s.wt.channel with
      | .idle => True
      | .outstanding k => (slotOf s.wt k.wafer).location = commandFrom k.verb k.place ∧ commandClear k.verb k.place s.wt
      | .halted c _ _ => (slotOf s.wt c).location = .unknown) := by
    cases s.wt.channel <;> rfl
  refine ⟨fun ⟨robot, aligner, chamber, lot, held⟩ => ⟨⟨robot, aligner, chamber⟩, lot, channel.2 held⟩, fun h => ?_⟩
  exact ⟨h.places.robot, h.places.aligner, h.places.chamber, h.lot, channel.1 h.channel⟩

theorem slotOf_modSlot (c d : CarrierSlot) (f : SlotRecord → SlotRecord) (t : WaferTracker) :
    slotOf (modSlot c f t) d = if d = c then f (slotOf t c) else slotOf t d := by
  by_cases h : d = c
  · subst h
    simp [slotOf, modSlot]
  · have hne : ¬ c.val = d.val := fun e => h (Fin.ext e.symm)
    simp [slotOf, modSlot, h, hne]

theorem locations_modSlot (c : CarrierSlot) (f : SlotRecord → SlotRecord) (t : WaferTracker) :
    locations (modSlot c f t) = Function.update (locations t) c (f (slotOf t c)).location := by
  funext d
  rw [locations, slotOf_modSlot, Function.update_apply]
  split <;> rfl

/-- A wafer moved between places: each place follows the wafer's old and new location. -/
theorem PlacesHold.move {loc : CarrierSlot → Location} {robot aligner chamber robot' aligner' chamber' : Option CarrierSlot}
    (h : PlacesHold loc robot aligner chamber) (c : CarrierSlot) (l : Location)
    (hr : ∀ d, robot' = some d ↔ if d = c then l = .onRobot else robot = some d)
    (ha : ∀ d, aligner' = some d ↔ if d = c then l = .onAligner else aligner = some d)
    (hc : ∀ d, chamber' = some d ↔ if d = c then l = .inChamber else chamber = some d) :
    PlacesHold (Function.update loc c l) robot' aligner' chamber' := by
  constructor <;> intro d <;> rw [Function.update_apply]
  · rw [hr]
    split_ifs
    · rfl
    · exact h.robot d
  · rw [ha]
    split_ifs
    · rfl
    · exact h.aligner d
  · rw [hc]
    split_ifs
    · rfl
    · exact h.chamber d

/-- A place that did not hold the wafer and is not its new location stands. -/
theorem place_stands {place : Option CarrierSlot} {c : CarrierSlot} {l m : Location} (out : place ≠ some c) (off : l ≠ m)
    (d : CarrierSlot) : place = some d ↔ if d = c then l = m else place = some d := by
  split_ifs with h
  · subst h
    simp [out, off]
  · rfl

/-- The place a wafer has left is empty. -/
theorem place_left {place : Option CarrierSlot} {c : CarrierSlot} {l m : Location} (held : place = some c) (off : l ≠ m)
    (d : CarrierSlot) : none = some d ↔ if d = c then l = m else place = some d := by
  subst held
  split_ifs with h
  · simp [off]
  · simp [Ne.symm h]

/-- An empty place that the wafer has come to holds it. -/
theorem place_taken {place : Option CarrierSlot} {c : CarrierSlot} {l m : Location} (free : place = none) (on : l = m)
    (d : CarrierSlot) : some c = some d ↔ if d = c then l = m else place = some d := by
  subst free
  split_ifs with h
  · simp [h, on]
  · simp [Ne.symm h]

/-! ## Each move of the Wafer Tracker -/

/-- No place holds a wafer that is not there. -/
theorem PlacesHold.not_held {loc : CarrierSlot → Location} {robot aligner chamber : Option CarrierSlot}
    (h : PlacesHold loc robot aligner chamber) {c : CarrierSlot} {l : Location} (at' : loc c = l) :
    (l ≠ .onRobot → robot ≠ some c) ∧ (l ≠ .onAligner → aligner ≠ some c) ∧ (l ≠ .inChamber → chamber ≠ some c) :=
  ⟨fun off held => off (at'.symm.trans ((h.robot c).1 held)), fun off held => off (at'.symm.trans ((h.aligner c).1 held)),
    fun off held => off (at'.symm.trans ((h.chamber c).1 held))⟩

/-- The places after the move of a DONE completion (R48). -/
theorem applyMove_places {k : HeldCommand} {t : WaferTracker} (h : PlacesHold (locations t) t.robot t.aligner t.chamber)
    (from' : locations t k.wafer = commandFrom k.verb k.place) (clear : commandClear k.verb k.place t) :
    PlacesHold (locations (applyMove k t)) (applyMove k t).robot (applyMove k t).aligner (applyMove k t).chamber := by
  obtain ⟨tag, v, p, carrier, c⟩ := k
  obtain ⟨offRobot, offAligner, offChamber⟩ := h.not_held from'
  cases v <;> cases p <;> simp only [commandFrom, commandClear] at from' clear offRobot offAligner offChamber
  case pick.carrier =>
    exact locations_modSlot c _ _ ▸ h.move c .onRobot (place_taken clear rfl)
      (place_stands (offAligner (by decide)) (by decide)) (place_stands (offChamber (by decide)) (by decide))
  case pick.aligner =>
    exact locations_modSlot c _ _ ▸ h.move c .onRobot (place_taken clear rfl) (place_left ((h.aligner c).2 from') (by decide))
      (place_stands (offChamber (by decide)) (by decide))
  case pick.stage =>
    exact locations_modSlot c _ _ ▸ h.move c .onRobot (place_taken clear rfl)
      (place_stands (offAligner (by decide)) (by decide)) (place_left ((h.chamber c).2 from') (by decide))
  case place.aligner =>
    exact locations_modSlot c _ _ ▸ h.move c .onAligner (place_left ((h.robot c).2 from') (by decide)) (place_taken clear rfl)
      (place_stands (offChamber (by decide)) (by decide))
  case place.stage =>
    exact locations_modSlot c _ _ ▸ h.move c .inChamber (place_left ((h.robot c).2 from') (by decide))
      (place_stands (offAligner (by decide)) (by decide)) (place_taken clear rfl)
  case place.carrier =>
    have back : (if (slotOf t c).visited = true then Location.returned else .inCarrier) ∉ [.onRobot, .onAligner, .inChamber] := by
      split_ifs <;> decide
    simp only [List.mem_cons, List.not_mem_nil, or_false, not_or] at back
    obtain ⟨robot, aligner, chamber⟩ := back
    exact locations_modSlot c _ _ ▸ h.move c _ (place_left ((h.robot c).2 from') robot)
      (place_stands (offAligner (by decide)) aligner) (place_stands (offChamber (by decide)) chamber)

theorem TrackerAgrees.carrier_of_channel {t : WaferTracker} (h : TrackerAgrees t) (busy : t.channel ≠ .idle) :
    ¬ (t.lot = .noLot ∨ t.lot = .loading) := fun lot => busy (h.lot lot).1

theorem applyMove_lot (k : HeldCommand) (t : WaferTracker) : (applyMove k t).lot = t.lot := by
  simp only [applyMove]
  split <;> rfl

/-- The tracker after a DONE completion's move, the channel IDLE (R48). -/
theorem TrackerAgrees.done {k : HeldCommand} {t : WaferTracker} (h : TrackerAgrees t) (held : t.channel = .outstanding k) :
    TrackerAgrees { applyMove k t with channel := .idle } where
  places := by
    obtain ⟨from', clear⟩ : ChannelAgrees t (.outstanding k) := held ▸ h.channel
    exact applyMove_places h.places from' clear
  lot lot := absurd (applyMove_lot k t ▸ lot) (h.carrier_of_channel (by simp [held]))
  channel := trivial

/-- A place that the wafer was in, or that was empty, and that is emptied. -/
theorem place_emptied {place : Option CarrierSlot} {c : CarrierSlot} {l m : Location} (h : place = none ∨ place = some c)
    (off : l ≠ m) (d : CarrierSlot) : none = some d ↔ if d = c then l = m else place = some d := by
  rcases h with rfl | held
  · exact place_stands (by simp) off d
  · exact place_left held off d

/-- Where a command's wafer can be: the robot and the place it names hold it or are empty, the other places do not hold it. -/
theorem places_of_command {t : WaferTracker} (h : PlacesHold (locations t) t.robot t.aligner t.chamber) {v : Verb} {p : Place}
    {c : CarrierSlot} (from' : locations t c = commandFrom v p) (clear : commandClear v p t) :
    (t.robot = none ∨ t.robot = some c)
      ∧ (if p = .aligner then t.aligner = none ∨ t.aligner = some c else t.aligner ≠ some c)
      ∧ (if p = .stage then t.chamber = none ∨ t.chamber = some c else t.chamber ≠ some c) := by
  obtain ⟨offRobot, offAligner, offChamber⟩ := h.not_held from'
  cases v <;> cases p <;> simp only [commandFrom, commandClear] at from' clear offRobot offAligner offChamber
  case pick.carrier => exact ⟨.inl clear, offAligner (by decide), offChamber (by decide)⟩
  case pick.aligner => exact ⟨.inl clear, .inr ((h.aligner c).2 from'), offChamber (by decide)⟩
  case pick.stage => exact ⟨.inl clear, offAligner (by decide), .inr ((h.chamber c).2 from')⟩
  case place.aligner => exact ⟨.inr ((h.robot c).2 from'), .inl clear, offChamber (by decide)⟩
  case place.stage => exact ⟨.inr ((h.robot c).2 from'), offAligner (by decide), .inl clear⟩
  case place.carrier => exact ⟨.inr ((h.robot c).2 from'), offAligner (by decide), offChamber (by decide)⟩

/-- The tracker after a FAULT: the wafer is nowhere and the places of the command are empty (R50). -/
theorem TrackerAgrees.fault {k : HeldCommand} {t : WaferTracker} (h : TrackerAgrees t) (held : t.channel = .outstanding k) :
    TrackerAgrees (faultWafer k t) := by
  obtain ⟨from', clear⟩ : ChannelAgrees t (.outstanding k) := held ▸ h.channel
  obtain ⟨robot, aligner, chamber⟩ := places_of_command h.places from' clear
  have lost : locations (faultWafer k t) = Function.update (locations t) k.wafer .unknown := by
    rw [faultWafer_eq]
    exact locations_modSlot k.wafer (fun r => { r with location := .unknown }) t
  have emptied : ∀ {p : Place} {place : Option CarrierSlot} {m : Location}, Location.unknown ≠ m →
      (if k.place = p then place = none ∨ place = some k.wafer else place ≠ some k.wafer) →
      ∀ d, (if k.place = p then none else place) = some d ↔ if d = k.wafer then Location.unknown = m else place = some d := by
    intro p place m off h
    by_cases named : k.place = p
    · rw [if_pos named] at h ⊢
      exact place_emptied h off
    · rw [if_neg named] at h ⊢
      exact place_stands h off
  refine ⟨?_, fun lot => absurd ?_ (h.carrier_of_channel (by simp [held])), ?_⟩
  · rw [lost, faultWafer_eq]
    exact h.places.move k.wafer .unknown (place_emptied robot (by decide)) (emptied (by decide) aligner)
      (emptied (by decide) chamber)
  · rw [faultWafer_eq] at lot
    exact lot
  · show locations (faultWafer k t) k.wafer = .unknown
    rw [lost, Function.update_self]

/-- The tracker after RELOCATE: the lost wafer is where it was found, in a place that was empty (R51, R52). -/
theorem TrackerAgrees.relocate {c : CarrierSlot} {v : Verb} {p : Place} {l : Location} {t : WaferTracker} (h : TrackerAgrees t)
    (halted : t.channel = .halted c v p) (fits : relocationOk c p l t = true) : TrackerAgrees (relocateWafer c l t) := by
  have lost : locations t c = .unknown := by
    have channel := h.channel
    rwa [halted] at channel
  have carrier := h.carrier_of_channel (by simp [halted])
  have free : placeTaken l t = false := by
    simp only [relocationOk, Bool.and_eq_true, Bool.not_eq_true'] at fits
    exact fits.2
  obtain ⟨offRobot, offAligner, offChamber⟩ := h.places.not_held lost
  have found : locations (relocateWafer c l t) = Function.update (locations t) c l := by
    rw [← locations_modSlot c (fun r => { r with location := l, aligned := false, visited := r.visited || l == .inChamber })]
    cases l <;> rfl
  refine ⟨?_, fun lot => absurd ?_ carrier, trivial⟩
  · rw [found]
    cases l <;> simp only [placeTaken, Option.isSome_eq_false_iff, Option.isNone_iff_eq_none] at free
    case onRobot =>
      exact h.places.move c _ (place_taken free rfl) (place_stands (offAligner (by decide)) (by decide))
        (place_stands (offChamber (by decide)) (by decide))
    case onAligner =>
      exact h.places.move c _ (place_stands (offRobot (by decide)) (by decide)) (place_taken free rfl)
        (place_stands (offChamber (by decide)) (by decide))
    case inChamber =>
      exact h.places.move c _ (place_stands (offRobot (by decide)) (by decide)) (place_stands (offAligner (by decide)) (by decide))
        (place_taken free rfl)
    all_goals
      exact h.places.move c _ (place_stands (offRobot (by decide)) (by decide))
        (place_stands (offAligner (by decide)) (by decide)) (place_stands (offChamber (by decide)) (by decide))
  · revert lot
    cases l <;> exact id

/-- A tracker with the same places, locations, lot and channel. -/
theorem TrackerAgrees.of_same {t t' : WaferTracker} (h : TrackerAgrees t) (loc : locations t' = locations t)
    (robot : t'.robot = t.robot) (aligner : t'.aligner = t.aligner) (chamber : t'.chamber = t.chamber) (lot : t'.lot = t.lot)
    (channel : t'.channel = t.channel) : TrackerAgrees t' where
  places := by rw [loc, robot, aligner, chamber]; exact h.places
  lot := by rw [lot, channel, robot, aligner, chamber]; exact h.lot
  channel := by
    have same := h.channel
    rw [channel]
    cases held : t.channel with
    | idle => trivial
    | halted c v p =>
      rw [held] at same
      exact (congrFun loc c).trans same
    | outstanding k =>
      rw [held] at same
      obtain ⟨from', clear⟩ := same
      refine ⟨by rw [loc]; exact from', ?_⟩
      cases hv : k.verb <;> cases hp : k.place <;>
        simp_all only [commandClear]

/-- Marks of a slot record that are not its location. -/
theorem TrackerAgrees.slotMarks {t : WaferTracker} (h : TrackerAgrees t) (c : CarrierSlot) {f : SlotRecord → SlotRecord}
    (still : ∀ r, (f r).location = r.location) : TrackerAgrees (modSlot c f t) := by
  refine h.of_same ?_ rfl rfl rfl rfl rfl
  rw [locations_modSlot, still]
  exact Function.update_eq_self c (locations t)

/-- A tracker with no wafer in any place and an idle channel. -/
theorem trackerAgrees_empty {t : WaferTracker} (robot : t.robot = none) (aligner : t.aligner = none) (chamber : t.chamber = none)
    (channel : t.channel = .idle) (loc : ∀ c, locations t c = .absent ∨ locations t c = .inCarrier ∨ locations t c = .returned) :
    TrackerAgrees t where
  places := by
    rw [robot, aligner, chamber]
    constructor <;> intro c <;> rcases loc c with h | h | h <;> simp [h]
  lot _ := ⟨channel, robot, aligner, chamber⟩
  channel := by rw [channel]; trivial

/-- The close of a lot at rest (R34, R36). -/
theorem closeLot_agrees (s : State) (rest : atRest s.wt = true) : TrackerAgrees (closeLot s).wt := by
  obtain ⟨loc, robot, aligner, chamber, channel⟩ := (atRest_iff _).1 rest
  exact trackerAgrees_empty robot aligner chamber channel loc

/-- A passed command's wafer is where its command takes it from (R41, R46). -/
theorem TrackerAgrees.passed {k : HeldCommand} {t : WaferTracker} (h : TrackerAgrees t) (lot : t.lot ≠ .noLot ∧ t.lot ≠ .loading)
    (meets : CommandMeets k.verb k.place k.wafer t) : TrackerAgrees (passCommand k t) where
  places := h.places
  lot := fun none => absurd none (not_or.2 lot)
  channel := by
    obtain ⟨tag, v, p, carrier, c⟩ := k
    cases v <;> cases p
    case pick.carrier => exact ⟨meets.1, meets.2⟩
    case pick.aligner => exact ⟨(h.places.aligner c).1 meets.1, meets.2⟩
    case pick.stage => exact ⟨(h.places.chamber c).1 meets.1, meets.2⟩
    case place.aligner => exact ⟨(h.places.robot c).1 meets.1, meets.2⟩
    case place.stage => exact ⟨(h.places.robot c).1 meets.1, meets.2⟩
    case place.carrier => exact ⟨(h.places.robot c).1 meets, trivial⟩

theorem slotOf_openLot (check : Bool) (w : Line) (t : WaferTracker) (c : CarrierSlot) :
    slotOf (openLot check w t) c = { SlotRecord.reset with rangeFault := rangeFaultOf (headerEnds w) c.val } := by
  simp [slotOf, openLot]

theorem slotOf_applyMap (m : Vector Condition 25) (t : WaferTracker) (c : CarrierSlot) :
    slotOf (applyMap m t) c = mapSlot m[c] (slotOf t c) := by
  simp [slotOf, applyMap]

/-- The Wafer Tracker through every move. -/
theorem Move.tracker {s t : State} (m : Move s t) (h : TrackerAgrees s.wt) : TrackerAgrees t.wt := by
  have close : ∀ u : State, atRest u.wt = true → TrackerAgrees u.wt → TrackerAgrees (closeLot u).wt :=
    fun u rest _ => closeLot_agrees u rest
  have entry : ∀ (c : CarrierSlot) (u : State), TrackerAgrees u.wt → TrackerAgrees (chamberEntry c u).wt :=
    fun c u h => (chamberEntry_frame c u).2.1.symm ▸ h
  have exit : ∀ u : State, TrackerAgrees u.wt → TrackerAgrees (exitDone u).wt := fun u h => by
    rw [exitDone_eq]
    exact h.of_same rfl rfl rfl rfl rfl rfl
  cases m with
  | site move => exact move.work.wt.symm ▸ h
  | setup | recipes => exact h
  | clear =>
    exact trackerAgrees_empty rfl rfl rfl rfl fun c => .inl (by simp [locations, slotOf, toolClear, WaferTracker.reset, SlotRecord.reset])
  | lotHeader check w free =>
    obtain ⟨channel, robot, aligner, chamber⟩ := h.lot (.inl free)
    exact trackerAgrees_empty robot aligner chamber channel fun c => .inl (by rw [locations, slotOf_openLot]; rfl)
  | slotMarks c f still => exact h.slotMarks c still
  | slotMap m loading =>
    obtain ⟨channel, robot, aligner, chamber⟩ := h.lot (.inr loading)
    refine trackerAgrees_empty robot aligner chamber channel fun c => ?_
    rw [locations, slotOf_applyMap, mapSlot]
    split_ifs <;> simp
  | idRead c ok v =>
    have read : ∀ q, TrackerAgrees (modSlot c (fun r => { r with readId := some v, idState := q }) s.wt) :=
      fun q => h.slotMarks c fun _ => rfl
    simp only [applyIdRead]
    split_ifs
    · exact (read _).of_same rfl rfl rfl rfl rfl rfl
    · exact read _
  | closing carrier => exact ⟨h.places, fun lot => by simp at lot, h.channel⟩
  | close rest => exact closeLot_agrees s rest
  | passed k lot meets | exits k lot meets => exact h.passed lot meets
  | done k held => exact completeDone_keeps (P := fun u => TrackerAgrees u.wt) close entry exit (h.done held)
  | fault k n held =>
    rw [completeFault_eq]
    exact h.fault held
  | relocate c v p l halted fits =>
    exact restTest_keeps (P := fun u => TrackerAgrees u.wt) close
      (relocateNotice_keeps (P := fun u => TrackerAgrees u.wt) entry exit (fun _ h => h) c v p l (h.relocate halted fits))

theorem trackerAgrees_reset : TrackerAgrees WaferTracker.reset :=
  trackerAgrees_empty rfl rfl rfl rfl fun c => .inl (by simp [locations, slotOf, WaferTracker.reset, SlotRecord.reset])

theorem trackerAgrees_kept : Kept fun s => TrackerAgrees s.wt :=
  .ofMoves (traffic := fun _ _ h => h) (queue := fun _ _ h => h) (buffer := fun _ _ _ h => h) (post := fun _ _ _ _ h => h)
    (rewrite := fun _ _ h => h) (pop := fun _ _ h => h) (reset := fun _ _ _ _ => trackerAgrees_reset)
    (move := fun _ _ m => m.tracker)

/-- Settles O59: only the Wafer Tracker counts, and each of its moves takes a wafer from a place that held it to one that was empty. -/
theorem placesAgreeAlways : Obligations.PlacesAgreeAlways := by
  intro s t h run
  rw [placesAgree_iff] at h ⊢
  exact trackerAgrees_kept.step s t h run

end Sys2Proof.Machine
end

section
/-! PROOFS. One site entry at most, and a lane of at most four places, after every step (R77, R80, R81, R115); and the laws at reset.
The table and the lane are followed through each operation as occupied by one entry or free. -/

namespace Sys2Proof.Machine

/-! ## An occupied site and a free one -/

/-- The places a site entry of a kind takes in the lane's occupancy (R81). -/
def kindWeight (k : RevisitKind) : Nat := if k = .regular then 0 else 1

/-- The site holds the entry at a tag, of a kind, and no other; the lane has room for it (R80, R81). -/
structure AtSite (tag : Nat) (kind : RevisitKind) (table : Sparse RevisitEntry) (lane : List Nat) : Prop where
  rising : Sparse.Rising table
  held : ∃ e, Sparse.lookup table tag = some e ∧ isSite e.state = true ∧ e.kind = kind
  only : ∀ p ∈ table, isSite p.2.state = true → p.1 = tag
  lane : lane.length + kindWeight kind ≤ 4

/-- The site holds no entry, and the lane at most `n` tags. -/
structure SiteFree (n : Nat) (table : Sparse RevisitEntry) (lane : List Nat) : Prop where
  rising : Sparse.Rising table
  none : ∀ p ∈ table, isSite p.2.state = false
  lane : lane.length ≤ n

/-- `SiteAndLane` of the Revisit Scheduler alone. -/
structure SiteLane (r : RevisitScheduler) : Prop where
  rising : Sparse.Rising r.table
  one : OneSite r.table
  lane : laneOccupancy r ≤ 4

theorem siteAndLane_iff (s : State) : SiteAndLane s ↔ SiteLane s.rs := ⟨fun ⟨h, h', h''⟩ => ⟨h, h', h''⟩, fun ⟨h, h', h''⟩ => ⟨h, h', h''⟩⟩

theorem laneOccupancy_of_site {r : RevisitScheduler} {tag : Nat} {e : RevisitEntry} (site : siteEntry r = some (tag, e)) :
    laneOccupancy r = r.lane.length + kindWeight e.kind := by
  simp only [laneOccupancy, site, kindWeight]

theorem laneOccupancy_of_free {r : RevisitScheduler} (free : siteEntry r = none) : laneOccupancy r = r.lane.length := by
  simp only [laneOccupancy, free, Nat.add_zero]

theorem siteEntry_mem {r : RevisitScheduler} {p : Nat × RevisitEntry} (h : siteEntry r = some p) :
    p ∈ r.table ∧ isSite p.2.state = true :=
  ⟨List.mem_of_find?_eq_some h, List.find?_some (p := fun q : Nat × RevisitEntry => isSite q.2.state) h⟩

/-- The site entry is what the table reads at its tag. -/
theorem lookup_siteEntry {r : RevisitScheduler} (rising : Sparse.Rising r.table) {tag : Nat} {e : RevisitEntry}
    (h : siteEntry r = some (tag, e)) : Sparse.lookup r.table tag = some e :=
  (Sparse.lookup_iff_mem rising tag e).2 (siteEntry_mem h).1

theorem SiteLane.atSite {r : RevisitScheduler} (h : SiteLane r) {tag : Nat} {e : RevisitEntry}
    (site : siteEntry r = some (tag, e)) : AtSite tag e.kind r.table r.lane where
  rising := h.rising
  held := ⟨e, lookup_siteEntry h.rising site, (siteEntry_mem site).2, rfl⟩
  only p hp here := by rw [h.one p hp _ (siteEntry_mem site).1 here (siteEntry_mem site).2]
  lane := laneOccupancy_of_site site ▸ h.lane

theorem SiteLane.siteFree {r : RevisitScheduler} (h : SiteLane r) (free : siteEntry r = none) : SiteFree 4 r.table r.lane where
  rising := h.rising
  none p hp := by simpa using List.find?_eq_none.1 free p hp
  lane := laneOccupancy_of_free free ▸ h.lane

/-- The site entry found is the one the site holds. -/
theorem AtSite.siteEntry {r : RevisitScheduler} {tag : Nat} {kind : RevisitKind} (h : AtSite tag kind r.table r.lane) :
    ∃ e, siteEntry r = some (tag, e) ∧ Sparse.lookup r.table tag = some e ∧ e.kind = kind := by
  obtain ⟨e, stored, here, kind⟩ := h.held
  have listed := Sparse.mem_of_lookup stored
  cases found : Machine.siteEntry r with
  | none => exact absurd here (List.find?_eq_none.1 found _ listed)
  | some p =>
    obtain ⟨tag', e'⟩ := p
    obtain rfl : tag' = tag := h.only _ (siteEntry_mem found).1 (siteEntry_mem found).2
    have same : e' = e := Option.some.inj ((lookup_siteEntry h.rising found).symm.trans stored)
    exact ⟨e, by rw [same], stored, kind⟩

theorem AtSite.siteLane {r : RevisitScheduler} {tag : Nat} {kind : RevisitKind} (h : AtSite tag kind r.table r.lane) :
    SiteLane r := by
  obtain ⟨e, site, -, rfl⟩ := h.siteEntry
  refine ⟨h.rising, fun p hp q hq sp sq => ?_, laneOccupancy_of_site site ▸ h.lane⟩
  have tags : p.1 = q.1 := (h.only p hp sp).trans (h.only q hq sq).symm
  have hp' := (Sparse.lookup_iff_mem h.rising p.1 p.2).2 hp
  rw [tags, (Sparse.lookup_iff_mem h.rising q.1 q.2).2 hq] at hp'
  exact Prod.ext tags (Option.some.inj hp').symm

theorem SiteFree.siteEntry {n : Nat} {r : RevisitScheduler} (h : SiteFree n r.table r.lane) : siteEntry r = Option.none :=
  siteEntry_eq_none h.none

theorem SiteFree.siteLane {n : Nat} {r : RevisitScheduler} (h : SiteFree n r.table r.lane) (few : n ≤ 4) : SiteLane r where
  rising := h.rising
  one p hp q _ sp := by simp [h.none p hp] at sp
  lane := laneOccupancy_of_free h.siteEntry ▸ h.lane.trans few

theorem siteFree_nil {n : Nat} {lane : List Nat} (h : lane.length ≤ n) : SiteFree n [] lane :=
  ⟨List.Pairwise.nil, (by simp), h⟩

/-! ## Entries written -/

/-- An entry of a canonical store after a write: the one written, or one at another index. -/
theorem Sparse.mem_insert_other {α : Type} {m : Sparse α} (rising : Sparse.Rising m) {i : Nat} {a : α} {p : Nat × α}
    (h : p ∈ Sparse.insert m i a) : p = (i, a) ∨ (p ∈ m ∧ p.1 ≠ i) := by
  have read := (Sparse.lookup_iff_mem (Sparse.rising_insert rising i a) p.1 p.2).2 h
  rw [Sparse.lookup_insert] at read
  split_ifs at read with here
  · exact .inl (Prod.ext here (Option.some.inj read).symm)
  · exact .inr ⟨Sparse.mem_of_lookup read, here⟩

section
variable {table : Sparse RevisitEntry} {lane : List Nat} {tag other n : Nat} {kind : RevisitKind} {e : RevisitEntry}

/-- The site entry written anew, still at the site. -/
theorem AtSite.stays (h : AtSite tag kind table lane) (here : isSite e.state = true) (same : e.kind = kind) :
    AtSite tag kind (Sparse.insert table tag e) lane where
  rising := Sparse.rising_insert h.rising tag e
  held := ⟨e, Sparse.lookup_insert_same .., here, same⟩
  only p hp sp := by
    rcases Sparse.mem_insert_other h.rising hp with rfl | ⟨hp, -⟩
    · rfl
    · exact h.only p hp sp
  lane := h.lane

/-- The site entry written in a state off the site: its place in the lane is free again. -/
theorem AtSite.leaves (h : AtSite tag kind table lane) (off : isSite e.state = false) :
    SiteFree (4 - kindWeight kind) (Sparse.insert table tag e) lane where
  rising := Sparse.rising_insert h.rising tag e
  none p hp := by
    rcases Sparse.mem_insert_other h.rising hp with rfl | ⟨hp, hne⟩
    · exact off
    · exact Bool.not_eq_true _ ▸ fun sp => hne (h.only p hp sp)
  lane := by have := h.lane; omega

/-- Another entry written off the site. -/
theorem AtSite.beside (h : AtSite tag kind table lane) (apart : other ≠ tag) (off : isSite e.state = false) :
    AtSite tag kind (Sparse.insert table other e) lane where
  rising := Sparse.rising_insert h.rising other e
  held := by
    obtain ⟨e', stored, here⟩ := h.held
    exact ⟨e', by rw [Sparse.lookup_insert_other _ _ apart.symm, stored], here⟩
  only p hp sp := by
    rcases Sparse.mem_insert_other h.rising hp with rfl | ⟨hp, -⟩
    · simp [off] at sp
    · exact h.only p hp sp
  lane := h.lane

theorem SiteFree.beside (h : SiteFree n table lane) (off : isSite e.state = false) :
    SiteFree n (Sparse.insert table other e) lane where
  rising := Sparse.rising_insert h.rising other e
  none p hp := by
    rcases Sparse.mem_insert_other h.rising hp with rfl | ⟨hp, -⟩
    · exact off
    · exact h.none p hp
  lane := h.lane

/-- An entry written at a free site, with one place of the lane left for it. -/
theorem SiteFree.comes (h : SiteFree 3 table lane) (here : isSite e.state = true) :
    AtSite tag e.kind (Sparse.insert table tag e) lane where
  rising := Sparse.rising_insert h.rising tag e
  held := ⟨e, Sparse.lookup_insert_same .., here, rfl⟩
  only p hp sp := by
    rcases Sparse.mem_insert_other h.rising hp with rfl | ⟨hp, -⟩
    · rfl
    · simp [h.none p hp] at sp
  lane := by
    have weight : kindWeight e.kind ≤ 1 := by unfold kindWeight; split_ifs <;> decide
    have := h.lane
    omega

theorem SiteFree.mono {m : Nat} (h : SiteFree n table lane) (le : n ≤ m) : SiteFree m table lane := ⟨h.rising, h.none, h.lane.trans le⟩

/-- A change of every entry that keeps which one is at the site, and its kind. -/
theorem AtSite.mapValues (h : AtSite tag kind table lane) {f : RevisitEntry → RevisitEntry}
    (site : ∀ e, isSite (f e).state = isSite e.state) (same : ∀ e, (f e).kind = e.kind) :
    AtSite tag kind (Sparse.mapValues f table) [] where
  rising := by rw [Sparse.Rising, Sparse.keys, Sparse.keys_mapValues]; exact h.rising
  held := by
    obtain ⟨e, stored, here, kind⟩ := h.held
    exact ⟨f e, by rw [Sparse.lookup_mapValues, stored, Option.map_some], by rw [site, here], by rw [same, kind]⟩
  only p hp sp := by
    obtain ⟨q, hq, rfl⟩ := List.mem_map.1 hp
    exact h.only q hq (by rw [← site]; exact sp)
  lane := by have := h.lane; simp only [List.length_nil]; omega

theorem SiteFree.mapValues (h : SiteFree n table lane) {f : RevisitEntry → RevisitEntry}
    (site : ∀ e, isSite (f e).state = isSite e.state) : SiteFree n (Sparse.mapValues f table) [] where
  rising := by rw [Sparse.Rising, Sparse.keys, Sparse.keys_mapValues]; exact h.rising
  none p hp := by
    obtain ⟨q, hq, rfl⟩ := List.mem_map.1 hp
    exact (site q.2).trans (h.none q hq)
  lane := Nat.zero_le _

end

/-! ## Operations on the entry at the site -/

section
variable {r : RevisitScheduler} {s : State} {tag : Nat} {kind : RevisitKind}

/-- The site entry changed, still at the site and of its kind. -/
theorem AtSite.modEntry (h : AtSite tag kind r.table r.lane) {f : RevisitEntry → RevisitEntry}
    (here : ∀ e, isSite e.state = true → isSite (f e).state = true) (same : ∀ e, (f e).kind = e.kind) :
    AtSite tag kind (modEntry tag f r).table (modEntry tag f r).lane := by
  obtain ⟨e, stored, site, rfl⟩ := h.held
  rw [modEntry_of_lookup stored]
  exact h.stays (here e site) (same e)

/-- The site entry changed to a state off the site. -/
theorem AtSite.modEntry_leaves (h : AtSite tag kind r.table r.lane) {f : RevisitEntry → RevisitEntry}
    (off : ∀ e, isSite (f e).state = false) :
    SiteFree (4 - kindWeight kind) (Machine.modEntry tag f r).table (Machine.modEntry tag f r).lane := by
  obtain ⟨e, stored, -⟩ := h.held
  rw [modEntry_of_lookup stored]
  exact h.leaves (off e)

theorem AtSite.failEntry (h : AtSite tag kind s.rs.table s.rs.lane) (reason : FailReason) : SiteLane (failEntry tag reason s).rs := by
  obtain ⟨e, stored, site, rfl⟩ := h.held
  have free : SiteFree 4 (Sparse.insert s.rs.table tag { e with state := .failed }) s.rs.lane :=
    (h.leaves (e := { e with state := .failed }) rfl).mono (Nat.sub_le _ _)
  simp only [Machine.failEntry, stored, site, if_true]
  exact SiteFree.siteLane (n := 4) free le_rfl

theorem AtSite.retireEntry (h : AtSite tag kind s.rs.table s.rs.lane) : SiteLane (retireEntry tag s).rs :=
  ((h.modEntry_leaves (r := stopTimer s.rs) (f := fun e => { e with state := .retired }) fun _ => rfl).mono
    (Nat.sub_le _ _)).siteLane le_rfl

theorem AtSite.makeRecall (h : AtSite tag kind s.rs.table s.rs.lane) : SiteLane (makeRecall tag s).rs :=
  SiteFree.siteLane (n := 4) ((h.modEntry_leaves (r := stopTimer s.rs)
    (f := fun e => { e with state := .queued, flags := { e.flags with restarted := true } }) fun _ => rfl).mono
    (Nat.sub_le _ _)) le_rfl

/-- A tag put back at the head of its own list takes the place its entry had (R79, R80, R109). -/
theorem SiteFree.returnTag (h : SiteFree (4 - kindWeight kind) r.table r.lane) : SiteLane (returnTag kind tag r) := by
  simp only [Machine.returnTag]
  split_ifs with regular
  · exact SiteFree.siteLane (n := 4) ⟨h.rising, h.none, h.lane.trans (Nat.sub_le _ _)⟩ le_rfl
  · have room := h.lane
    simp only [kindWeight, if_neg regular] at room
    exact SiteFree.siteLane (n := 4) ⟨h.rising, h.none, by simp only [laneHead, List.length_cons]; omega⟩ le_rfl

theorem AtSite.expireArrival {e : RevisitEntry} (h : AtSite tag e.kind s.rs.table s.rs.lane) :
    SiteLane (expireArrival tag e s).rs := by
  have counted := h.modEntry (r := s.rs) (f := fun x => { x with attempts := e.attempts + 1 }) (fun _ => id) fun _ => rfl
  simp only [Machine.expireArrival]
  split_ifs
  · exact SiteFree.siteLane (n := 4) ((counted.modEntry_leaves (r := stopTimer (Machine.modEntry ..))
      (f := fun e => { e with state := .notReviewed }) fun _ => rfl).mono (Nat.sub_le _ _)) le_rfl
  · exact (counted.modEntry_leaves (r := stopTimer (Machine.modEntry ..)) (f := fun e => { e with state := .queued })
      fun _ => rfl).returnTag
  · exact counted.failEntry (s := { s with rs := Machine.modEntry .. }) _

theorem SiteLane.expireSite {e : RevisitEntry} (h : SiteLane s.rs) (site : siteEntry s.rs = some (tag, e)) :
    SiteLane (expireSite tag e s).rs := by
  have held := h.atSite site
  unfold Machine.expireSite
  split
  · exact held.expireArrival
  · exact held.makeRecall
  · exact held.failEntry _
  · exact held.failEntry _
  · exact held.failEntry _
  all_goals exact h

/-! ## The lane and the recall at a join (R81, R83, R85, R105) -/

theorem AtSite.recallOnJoin (h : AtSite tag kind r.table r.lane) :
    AtSite tag kind (Machine.recallOnJoin r).table (Machine.recallOnJoin r).lane := by
  obtain ⟨e, site, stored, rfl⟩ := h.siteEntry
  by_cases recalled : e.kind = .regular ∧ e.state = .dispatched
  · rw [recallOnJoin_of_dispatched site stored recalled]
    exact h.stays (e := { e with state := .recalling }) rfl rfl
  · rw [recallOnJoin_of_not_dispatched site recalled]
    exact h

/-- A waiting entry written beside the site, its tag joining a lane that is not full (R81, R83). -/
theorem SiteLane.joins {r' : RevisitScheduler} {e : RevisitEntry} (h : SiteLane r) (room : laneFull r = false)
    (off : isSite e.state = false) (apart : ∀ x, Sparse.lookup r.table tag = some x → isSite x.state = false)
    (written : r'.table = Sparse.insert r.table tag e) (joined : r'.lane.length = r.lane.length + 1) :
    SiteLane (Machine.recallOnJoin r') := by
  have few : laneOccupancy r < 4 := by
    rw [← not_le, ← laneFull_iff, room]
    decide
  cases site : Machine.siteEntry r with
  | none =>
    have free := (h.siteFree site).beside (other := tag) off
    rw [laneOccupancy_of_free site] at few
    have free' : SiteFree 4 r'.table r'.lane := ⟨written ▸ free.rising, written ▸ free.none, by omega⟩
    rw [recallOnJoin_of_no_site free'.none]
    exact free'.siteLane le_rfl
  | some p =>
    obtain ⟨here, x⟩ := p
    have distinct : tag ≠ here := by
      rintro rfl
      simpa [apart x (lookup_siteEntry h.rising site)] using (siteEntry_mem site).2
    have held := (h.atSite site).beside distinct off
    rw [laneOccupancy_of_site site] at few
    have held' : AtSite here x.kind r'.table r'.lane := ⟨written ▸ held.rising, written ▸ held.held, written ▸ held.only, by omega⟩
    exact held'.recallOnJoin.siteLane

theorem SiteLane.promote {e : RevisitEntry} (h : SiteLane r) (room : laneFull r = false)
    (stored : Sparse.lookup r.table tag = some e) (waits : e.state = .queued) : SiteLane (promote tag r) := by
  rw [promote_eq stored]
  refine h.joins (e := { e with kind := .urgent }) room (by rw [waits]; rfl) (fun x hx => ?_) rfl (by simp)
  rw [stored] at hx
  cases hx
  rw [waits]
  rfl

theorem SiteLane.addUrgent (h : SiteLane r) (room : laneFull r = false) (free : Sparse.lookup r.table tag = none) (i : Nat) :
    SiteLane (addUrgent tag i r) :=
  h.joins (e := newEntry .urgent (some i)) room rfl (fun x hx => by rw [free] at hx; cases hx) rfl
    (by simp [laneTail])

theorem AtSite.admitCalibration (h : AtSite tag kind r.table r.lane) (admitted : calibrationAdmitted r = true) :
    AtSite tag kind (admitCalibration r).table (admitCalibration r).lane := by
  simp only [calibrationAdmitted, Bool.and_eq_true, Bool.not_eq_true'] at admitted
  obtain ⟨⟨-, room⟩, off⟩ := admitted
  obtain ⟨e, site, stored, rfl⟩ := h.siteEntry
  have few : r.lane.length + kindWeight e.kind < 4 := by
    rw [← laneOccupancy_of_site site, ← not_le, ← laneFull_iff, room]
    decide
  have apart : Config.calibrationTag ≠ tag := by
    rintro rfl
    simp [stored, (siteEntry_mem site).2] at off
  have beside := h.beside (e := newEntry .calibration none) apart rfl
  exact AtSite.recallOnJoin ⟨beside.rising, beside.held, beside.only, by simp only [laneHead, putEntry, List.length_cons]; omega⟩

theorem SiteLane.of_same {r' : RevisitScheduler} (h : SiteLane r) (table : r'.table = r.table) (lane : r'.lane = r.lane) :
    SiteLane r' where
  rising := table ▸ h.rising
  one := table ▸ h.one
  lane := by
    have same : laneOccupancy r' = laneOccupancy r := by simp only [laneOccupancy, Machine.siteEntry, table, lane]
    exact same ▸ h.lane

/-! ## Dispatch (R100, R101) -/

theorem SiteFree.failEntry (h : SiteFree 4 s.rs.table s.rs.lane) (reason : FailReason) :
    SiteFree 4 (Machine.failEntry tag reason s).rs.table (Machine.failEntry tag reason s).rs.lane := by
  cases stored : Sparse.lookup s.rs.table tag with
  | none =>
    simp only [Machine.failEntry, stored]
    exact h
  | some e =>
    have off : isSite e.state = false := h.none _ (Sparse.mem_of_lookup stored)
    simp only [Machine.failEntry, stored, off]
    exact h.beside (e := { e with state := .failed }) rfl

theorem SiteFree.takeCandidate {popped : RevisitScheduler} (h : SiteFree 4 r.table r.lane)
    (candidate : takeCandidate r = some (tag, popped)) : SiteFree 3 popped.table popped.lane := by
  have few := h.lane
  obtain ⟨rest, ⟨lane, rfl⟩ | ⟨lane, -, rfl⟩⟩ := takeCandidate_eq_some candidate
  · rw [lane, List.length_cons] at few
    exact ⟨h.rising, h.none, Nat.le_of_succ_le_succ few⟩
  · exact ⟨h.rising, h.none, by simp [lane]⟩

theorem SiteFree.dispatchEntry {e : RevisitEntry} (h : SiteFree 3 s.rs.table s.rs.lane)
    (stored : Sparse.lookup s.rs.table tag = some e) (kind : RevisitKind) (target : Int × Int) (uncorrected : Bool) :
    SiteLane (dispatchEntry tag kind target uncorrected s).rs := by
  have sent : ∀ r : RevisitScheduler, r.table = s.rs.table → r.lane = s.rs.lane →
      SiteLane (Machine.modEntry tag (dispatchedEntry (s.rs.session.sequence + 1) target uncorrected) r) := by
    intro r table lane
    rw [modEntry_of_lookup (table ▸ stored)]
    have free : SiteFree 3 r.table r.lane := by rwa [table, lane]
    exact (free.comes (tag := tag) (e := dispatchedEntry _ target uncorrected e) rfl).siteLane
  exact (sent { s.rs with session := { s.rs.session with sequence := s.rs.session.sequence + 1 } } rfl rfl).of_same rfl rfl

theorem SiteFree.dispatchLoop (w : WaferRecipe) (fuel : Nat) (h : SiteFree 4 s.rs.table s.rs.lane) :
    SiteLane (dispatchLoop w fuel s).rs := by
  induction fuel generalizing s with
  | zero => exact h.siteLane le_rfl
  | succ fuel ih =>
    simp only [Machine.dispatchLoop]
    split
    · exact h.siteLane le_rfl
    case h_2 tag popped candidate =>
      have taken := h.takeCandidate candidate
      have taken4 := taken.mono (m := 4) (by decide)
      split
      · exact ih taken4
      case h_2 e stored =>
        split
        · exact ih taken4
        · split_ifs
          · exact ih (SiteFree.failEntry (s := { s with rs := popped }) taken4 _)
          · exact SiteFree.dispatchEntry (s := { s with rs := popped }) taken stored _ _ _

theorem SiteLane.actOnTarget (h : SiteLane s.rs) : SiteLane (actOnTarget s).rs := by
  unfold Machine.actOnTarget
  split_ifs
  · split
    case h_1 free =>
      unfold dispatchNext
      split
      · exact h
      · exact (h.siteFree free).dispatchLoop _ _
    case h_2 tag e site =>
      split_ifs
      · exact (h.atSite site).makeRecall
      · exact h
  · exact h

/-! ## The focus step (R122 to R132, R146) -/

theorem AtSite.becomeFocused (h : AtSite tag kind s.rs.table s.rs.lane) (z : Int) (flags : EntryFlags → EntryFlags) :
    SiteLane (becomeFocused tag z flags s).rs := by
  unfold Machine.becomeFocused
  split
  case h_1 w c latched context =>
    split
    · exact h.failEntry _
    case h_2 m offered =>
      have focused := h.modEntry (r := s.rs)
        (f := fun e => { e with
          state := .focused
          flags := { flags e.flags with
            clamped := (flags e.flags).clamped
              || clampFocus w.focus (offsetFocus w.geometry m z) != offsetFocus w.geometry m z } }) (fun _ _ => rfl) fun _ => rfl
      exact AtSite.siteLane (r := startTimer _ _) focused
  · exact h.siteLane

theorem AtSite.decideStep {e : RevisitEntry} (h : AtSite tag kind s.rs.table s.rs.lane) : SiteLane (decideStep tag e s).rs := by
  have begun : ∀ (plan : SweepPlan) (c : FocusContext) (t : State), t.rs.table = s.rs.table → t.rs.lane = s.rs.lane →
      SiteLane (beginSweep tag plan c t).rs := by
    intro plan c t table lane
    have same : AtSite tag kind t.rs.table t.rs.lane := by rw [table, lane]; exact h
    exact AtSite.siteLane (r := startTimer _ _)
      (same.modEntry (f := fun e => { e with state := .focusing, sweeps := 1 }) (fun _ _ => rfl) fun _ => rfl)
  unfold Machine.decideStep
  split
  · simp only
    split
    · refine AtSite.becomeFocused (kind := kind) ?_ _ _
      exact h
    · exact begun _ _ _ rfl rfl
    · exact begun _ _ _ rfl rfl
  · exact h.siteLane

theorem SiteLane.actOnPlan (h : SiteLane s.rs) : SiteLane (actOnPlan s).rs := by
  unfold Machine.actOnPlan
  split
  case h_1 tag e site =>
    split_ifs
    · exact (h.atSite site).decideStep
    · exact h
  · exact h

theorem AtSite.foldSweep (h : AtSite tag kind s.rs.table s.rs.lane) (recipe : FocusRecipe) (c : FocusContext) (measured : Int) :
    AtSite tag kind (foldSweep recipe c measured s).rs.table (foldSweep recipe c measured s).rs.lane := by
  simp only [Machine.foldSweep, drift, requestCalibration]
  split_ifs with reached admitted
  · exact h.admitCalibration admitted
  · exact h
  · exact h

theorem AtSite.actOnOk (h : AtSite tag kind s.rs.table s.rs.lane) (w : WaferRecipe) (c : FocusContext) (raw : Int) :
    SiteLane (actOnOk w c tag kind raw s).rs := by
  have marked := h.modEntry
    (f := fun e => { e with flags := { e.flags with clamped := e.flags.clamped || clampFocus w.focus raw != raw } })
    (fun _ => id) fun _ => rfl
  have folded := AtSite.foldSweep (s := markClamped tag (clampFocus w.focus raw != raw) s) marked w.focus c (clampFocus w.focus raw)
  simp only [Machine.actOnOk]
  split_ifs
  · exact AtSite.retireEntry (s := { Machine.foldSweep .. with fe := _ }) folded
  · exact folded.becomeFocused _ _

theorem AtSite.sweepAgain {e : RevisitEntry} (h : AtSite tag e.kind s.rs.table s.rs.lane) (w : WaferRecipe) (centre : Int)
    (c : FocusContext) : SiteLane (sweepAgain w centre c tag e s).rs := by
  unfold Machine.sweepAgain fallBack
  split_ifs
  · exact (h.modEntry (f := fun e => { e with sweeps := e.sweeps + 1 }) (fun _ => id) fun _ => rfl).siteLane
  · exact AtSite.retireEntry (s := { s with fe := _ }) h
  · exact h.becomeFocused _ _

theorem AtSite.actOnSweep {e : RevisitEntry} (h : AtSite tag e.kind s.rs.table s.rs.lane) (w : WaferRecipe) (c : FocusContext)
    (p : SweepPlan) (scores : List Nat) : SiteLane (actOnSweep w c p tag e scores s).rs := by
  unfold Machine.actOnSweep
  split
  · exact h.sweepAgain w _ c
  · simp only [actOnEdge]
    split_ifs
    · exact h.becomeFocused _ _
    · exact h.sweepAgain w _ c
  · exact h.actOnOk w c _

/-! ## The session (R63, R65, R68, R76) -/

/-- Selection writes waiting entries only and leaves the lane (R76). -/
theorem runSelection_siteFree (m : SamplingRecipe) (start stop : Nat) {n : Nat} (few : r.lane.length ≤ n) :
    SiteFree n (runSelection m start stop r).table (runSelection m start stop r).lane := by
  refine List.foldlRecOn (motive := fun x : RevisitScheduler => SiteFree n x.table x.lane) _ _ (siteFree_nil few) ?_
  intro x h i _
  simp only [selectIndex]
  split
  · exact h
  · split_ifs
    · exact h
    · exact h
    · exact h.beside rfl

theorem SiteLane.lane_le (h : SiteLane r) : r.lane.length ≤ 4 := (Nat.le_add_right _ _).trans h.lane

theorem SiteLane.chamberEntry (c : CarrierSlot) (s : State) (h : SiteLane s.rs) : SiteLane (chamberEntry c s).rs := by
  unfold Machine.chamberEntry
  split
  · exact h
  case h_2 w latched =>
    have filled := runSelection_siteFree (r := { s.rs with session := openedSession c w s.rs.session }) w.sampling
      (rangeStart s.wt c) (rangeEnd s.wt c) h.lane_le
    have free : SiteFree 4 (openSession c w (rangeStart s.wt c) (rangeEnd s.wt c) s.rs).table
      (openSession c w (rangeStart s.wt c) (rangeEnd s.wt c) s.rs).lane := filled
    exact free.siteLane le_rfl

theorem siteLane_exitDone (s : State) : SiteLane (exitDone s).rs := by
  rw [exitDone_eq]
  exact SiteFree.siteLane (n := 4) (siteFree_nil (Nat.zero_le _)) le_rfl

/-- An END_WAFER empties the lane and moves no entry to the site (R65). -/
theorem SiteLane.endReview (h : SiteLane r) : SiteLane (endReview r) := by
  have unqueued_site : ∀ e, isSite (unqueued e).state = isSite e.state := fun e => by
    unfold unqueued
    split_ifs with queued
    · rw [queued]
      rfl
    · rfl
  have withdrawn_site : ∀ e, isSite (withdrawn e).state = isSite e.state := fun e => by
    unfold withdrawn
    split_ifs with recalling
    · rw [recalling]
      rfl
    · rfl
  have unqueued_kind : ∀ e, (unqueued e).kind = e.kind := fun e => by unfold unqueued; split_ifs <;> rfl
  have withdrawn_kind : ∀ e, (withdrawn e).kind = e.kind := fun e => by unfold withdrawn; split_ifs <;> rfl
  have ended : (Machine.endReview r).table = Sparse.mapValues withdrawn (Sparse.mapValues unqueued r.table)
      ∧ (Machine.endReview r).lane = [] := by
    have rising : Sparse.Rising (Sparse.mapValues unqueued r.table) := by
      rw [Sparse.Rising, Sparse.keys, Sparse.keys_mapValues]
      exact h.rising
    have one : OneSite (Sparse.mapValues unqueued r.table) := oneSite_mapValues h.one fun _ => isSite_of_unqueued
    simp only [Machine.endReview, dropQueued_eq]
    rw [withdrawRecall_eq rising one]
    exact ⟨rfl, rfl⟩
  cases site : Machine.siteEntry r with
  | none =>
    have free := ((h.siteFree site).mapValues unqueued_site).mapValues withdrawn_site
    rw [← ended.1, ← ended.2] at free
    exact free.siteLane le_rfl
  | some p =>
    have held := ((h.atSite site).mapValues unqueued_site unqueued_kind).mapValues withdrawn_site withdrawn_kind
    rw [← ended.1, ← ended.2] at held
    exact held.siteLane

/-! ## Every move -/

theorem SiteLane.siteMove {t : State} (h : SiteLane s.rs) (m : SiteMove s t) : SiteLane t.rs := by
  cases m
  case stands => exact h
  case aligned x y =>
    refine h.of_same ?_ ?_ <;> (simp only [alignSession]; split_ifs <;> rfl)
  case ended => exact h.endReview
  case promoted tag i e room found waits =>
    have stored := (Sparse.lookup_iff_mem h.rising tag e).2 (List.mem_of_find?_eq_some found)
    exact h.promote room stored waits
  case added tag i room free => exact h.addUrgent room (openTag_spec free).2 i
  case arrived tag e x y settled site =>
    have arrived := (h.atSite site).modEntry (r := s.rs)
      (f := fun x' => { x' with
        state := .arrived
        flags := { x'.flags with
          positionOff := x'.flags.positionOff || positionOff (toleranceOf s.rs) (e.target.getD (0, 0)) x y settled } })
      (fun _ _ => rfl) fun _ => rfl
    exact AtSite.siteLane (r := startTimer _ _) arrived
  case swept w c p tag e scores site context => exact (h.atSite site).actOnSweep w c p scores
  case resulted tag e o c site =>
    have retired : SiteLane (retireByResult tag e.kind o c s).rs := by
      refine (h.atSite site).retireEntry.of_same ?_ ?_ <;>
        (simp only [retireByResult, countRetired]; split_ifs; rfl; cases o <;> rfl)
    cases o
    · exact retired
    · exact retired
    · exact (h.atSite site).failEntry _
  case targeted => exact h.actOnTarget
  case planned => exact h.actOnPlan
  case expired tag e site => exact h.expireSite site
  all_goals exact h.of_same rfl rfl

end

theorem Move.siteLane {s t : State} (m : Move s t) (h : SiteLane s.rs) : SiteLane t.rs := by
  have close : ∀ u : State, atRest u.wt = true → SiteLane u.rs → SiteLane (closeLot u).rs := fun _ _ h => h
  have entry : ∀ (c : CarrierSlot) (u : State), SiteLane u.rs → SiteLane (chamberEntry c u).rs := SiteLane.chamberEntry
  have exit : ∀ u : State, SiteLane u.rs → SiteLane (exitDone u).rs := fun u _ => siteLane_exitDone u
  have cancel : ∀ u : State, SiteLane u.rs → SiteLane (exitCancelled u.rs) := fun u h => by
    refine h.of_same ?_ ?_ <;> (unfold exitCancelled; split <;> rfl)
  cases m with
  | site move => exact h.siteMove move
  | setup | recipes | slotMarks | slotMap | closing | passed => exact h
  | clear => exact SiteFree.siteLane (n := 4) (siteFree_nil (Nat.zero_le _)) le_rfl
  | lotHeader | exits => exact h.of_same rfl rfl
  | idRead c ok v =>
    simp only [applyIdRead]
    split_ifs <;> exact h
  | close rest => exact h
  | done k held => exact completeDone_keeps (P := fun u => SiteLane u.rs) close entry exit h
  | fault k n held =>
    rw [completeFault_eq]
    exact h
  | relocate c v p l halted fits =>
    exact restTest_keeps (P := fun u => SiteLane u.rs) close
      (relocateNotice_keeps (P := fun u => SiteLane u.rs) entry exit cancel c v p l h)

theorem siteLane_reset : SiteLane RevisitScheduler.reset := SiteFree.siteLane (n := 4) (siteFree_nil (Nat.zero_le _)) le_rfl

theorem siteLane_kept : Kept fun s => SiteLane s.rs :=
  .ofMoves (traffic := fun _ _ h => h) (queue := fun _ _ h => h) (buffer := fun _ _ _ h => h) (post := fun _ _ _ _ h => h)
    (rewrite := fun _ _ h => h) (pop := fun _ _ h => h) (reset := fun _ _ _ _ => siteLane_reset)
    (move := fun _ _ m => m.siteLane)

/-- Settles O60: an entry comes to the site only where it is free, and a tag joins only a lane with room for it. -/
theorem oneSiteAndFourPlaces : Obligations.OneSiteAndFourPlaces := by
  intro s t h run
  rw [siteAndLane_iff] at h ⊢
  exact siteLane_kept.step s t h run

/-! ## The laws at reset -/

/-- Settles O4: every block's part of the laws holds of its pin-reset values. -/
theorem lawsHoldAtReset : Obligations.LawsHoldAtReset := by
  refine ⟨(by rintro ⟨⟩), (attnRight_iff _).2 attnAtCondition_kept.reset, Nat.zero_le _, (countsHold_iff _).2 ?counts,
    (placesAgree_iff _).2 trackerAgrees_reset, (siteAndLane_iff _).2 siteLane_reset, (storesBounded_iff _).2 ?stores⟩
  case counts =>
    exact ⟨Nat.zero_le _, reportCounts_kept.reset, trackerCounts_zero rfl, Nat.zero_le _, focusCounts_empty rfl rfl⟩
  case stores => exact ⟨(by rintro _ ⟨⟩), schedulerBounded_reset, focusBounded_empty rfl rfl⟩

end Sys2Proof.Machine
end

section
/-! PROOFS. One step, the step timer's tick and its expiries (R108 to R111, R114), and the values pin reset leaves (R1, R21). -/

namespace Sys2Proof.Machine

/-- Settles O1: by the definition of a step. -/
theorem stepRunsFrontCommand : Obligations.StepRunsFrontCommand := fun _ _ _ => rfl

/-! ## Pin reset -/

theorem inProgress_iff (c : Instr) : inProgress c = true ↔ (∃ h, headerOf c = some h ∧ h.heldRole ≠ none)
    ∨ ∃ r first count, c = .reportWindowRead r first count ∧ first ≠ 0 := by
  have accepted : ((headerOf c).bind (·.heldRole)).isSome = true ↔ ∃ h, headerOf c = some h ∧ h.heldRole ≠ none := by
    cases headerOf c <;> simp [Option.isSome_iff_ne_none]
  unfold inProgress
  rw [Bool.or_eq_true, accepted]
  refine or_congr_right ?_
  split
  next r first count => simp
  next other => simpa using fun r first count h => absurd h (other r first count)

/-- Settles O3: by the definition of the pin-reset state; the queue's filter by the two kinds of transaction in progress. -/
theorem pinResetValues : Obligations.PinResetValues := ⟨fun _ _ _ => rfl, rfl, inProgress_iff⟩

/-! ## The tick -/

theorem tick_first {s : State} {limit elapsed : Nat} (h : s.rs.timer = .running limit elapsed true) :
    tick s = { s with rs := { s.rs with timer := .running limit elapsed false } } := by
  simp only [tick, h]

theorem tick_counts {s : State} {limit elapsed : Nat} (h : s.rs.timer = .running limit elapsed false) (below : elapsed + 1 < limit) :
    tick s = { s with rs := { s.rs with timer := .running limit (elapsed + 1) false } } := by
  simp only [tick, h, if_pos below]

theorem tick_expires {s : State} {limit elapsed : Nat} (h : s.rs.timer = .running limit elapsed false) (reached : limit ≤ elapsed + 1) :
    tick s = expireTimer s := by
  simp only [tick, h, if_neg (Nat.not_lt.2 reached)]

/-- The first tick is not counted; each later one below the limit is (R108). -/
theorem tick_iterate {s : State} {limit : Nat} (h : s.rs.timer = .running limit 0 true) (n : Nat) (le : n + 1 ≤ limit) :
    tick^[n + 1] s = { s with rs := { s.rs with timer := .running limit n false } } := by
  induction n with
  | zero => exact tick_first h
  | succ n ih =>
    rw [Function.iterate_succ_apply', ih (by omega)]
    exact tick_counts rfl (by omega)

/-! ## The expiry -/

theorem expireTimer_of_free {s : State} (free : siteEntry s.rs = none) : expireTimer s = s := by
  simp only [expireTimer, free]

theorem expireTimer_of_site {s : State} {tag : Nat} {e : RevisitEntry} (site : siteEntry s.rs = some (tag, e)) :
    expireTimer s = expireSite tag e s := by
  simp only [expireTimer, site]

theorem failEntry_idlePorts (tag : Nat) (reason : FailReason) (s : State) :
    failEntry tag reason (idlePorts s) = idlePorts (failEntry tag reason s) := by
  simp only [failEntry, idlePorts_rs]
  cases Sparse.lookup s.rs.table tag <;> rfl

theorem expireArrival_fails {s : State} (e : RevisitEntry) (spent : s.pi.setup.maxAttempts ≤ e.attempts + 1) (tag : Nat) :
    expireArrival tag e s = failEntry tag .arrivalTimeout
      { s with rs := modEntry tag (fun x => { x with attempts := e.attempts + 1 }) s.rs } := if_neg (Nat.not_lt.2 spent)

theorem expireArrival_ending {s : State} (e : RevisitEntry) (left : e.attempts + 1 < s.pi.setup.maxAttempts)
    (ending : s.rs.session.state = .ending) (tag : Nat) :
    expireArrival tag e s =
      let t := leaveSite tag (fun x => { x with state := .notReviewed })
        { s with rs := modEntry tag (fun x => { x with attempts := e.attempts + 1 }) s.rs }
      { t with rs := modTallies (countNotReviewed e.kind 1) t.rs } := (if_pos left).trans (if_pos ending)

theorem expireArrival_requeues {s : State} (e : RevisitEntry) (left : e.attempts + 1 < s.pi.setup.maxAttempts)
    (running : s.rs.session.state ≠ .ending) (tag : Nat) :
    expireArrival tag e s =
      let t := leaveSite tag (fun x => { x with state := .queued })
        { s with rs := modEntry tag (fun x => { x with attempts := e.attempts + 1 }) s.rs }
      { t with rs := returnTag e.kind tag t.rs } := (if_pos left).trans (if_neg running)

theorem expireArrival_idlePorts (tag : Nat) (e : RevisitEntry) (s : State) :
    expireArrival tag e (idlePorts s) = idlePorts (expireArrival tag e s) := by
  by_cases left : e.attempts + 1 < s.pi.setup.maxAttempts
  · by_cases ending : s.rs.session.state = .ending
    · rw [expireArrival_ending e left ending, expireArrival_ending (s := idlePorts s) e left ending]; rfl
    · rw [expireArrival_requeues e left ending, expireArrival_requeues (s := idlePorts s) e left ending]; rfl
  · rw [expireArrival_fails e (Nat.not_lt.1 left), expireArrival_fails (s := idlePorts s) e (Nat.not_lt.1 left)]
    exact failEntry_idlePorts tag .arrivalTimeout { s with rs := modEntry tag (fun x => { x with attempts := e.attempts + 1 }) s.rs }

/-- An expiry does not read the ports. -/
theorem expireSite_idlePorts (tag : Nat) (e : RevisitEntry) (s : State) :
    expireSite tag e (idlePorts s) = idlePorts (expireSite tag e s) := by
  unfold expireSite
  cases e.state
  case dispatched => exact expireArrival_idlePorts tag e s
  case arrived | focusing => exact failEntry_idlePorts tag .focusTimeout s
  case focused => exact failEntry_idlePorts tag .imageTimeout s
  all_goals rfl

/-- An expiry does not move the ports. -/
theorem expireSite_traffic (tag : Nat) (e : RevisitEntry) (s : State) : (expireSite tag e s).traffic = s.traffic := by
  unfold expireSite
  cases e.state
  case dispatched => simp only [expireArrival]; split_ifs <;> simp
  all_goals simp

/-- The states in which the site entry's expiry is an expiry command's (R109 to R111). -/
def ExpiresIn (c : Instr) (state : RevisitState) : Prop :=
  (state = .dispatched ∧ c = .arrivalStepExpiry) ∨ (state = .recalling ∧ c = .recallExpiry)
    ∨ ((state = .arrived ∨ state = .focusing) ∧ c = .focusStepExpiry) ∨ (state = .focused ∧ c = .imageStepExpiry)

theorem timerRunning_iff (r : RevisitScheduler) : timerRunning r = true ↔ r.timer ≠ .stopped := bne_iff_ne

theorem exec_expiry {s : State} {tag : Nat} {e : RevisitEntry} {c : Instr} (running : s.rs.timer ≠ .stopped)
    (site : siteEntry s.rs = some (tag, e)) (h : ExpiresIn c e.state) : exec c s = .next (expireSite tag e (idlePorts s)) := by
  have expires : ∀ states : List RevisitState, e.state ∈ states →
      expireIn states (idlePorts s) = expireSite tag e (idlePorts s) := fun states mem => by
    have go : (timerRunning (idlePorts s).rs && states.contains e.state) = true :=
      Bool.and_eq_true_iff.2 ⟨(timerRunning_iff _).2 running, List.contains_iff_mem.2 mem⟩
    simp only [expireIn, idlePorts_rs, site] at go ⊢
    exact if_pos go
  obtain ⟨state, rfl⟩ | ⟨state, rfl⟩ | ⟨state | state, rfl⟩ | ⟨state, rfl⟩ := h
  all_goals exact congrArg Host.Outcome.next (expires _ (by simp [state]))

/-- Settles O2: the ticks by induction on their number; the expiry of a command is the timer's with the ports put idle. -/
theorem timerExpiresAfterItsLimit : Obligations.TimerExpiresAfterItsLimit := by
  unfold Obligations.TimerExpiresAfterItsLimit
  refine ⟨fun s h => ?_, fun s limit pos h => ⟨fun n hn le => ?_, ?_⟩, fun s free => ?_, fun s tag e c running site row => ?_⟩
  · simp only [step, h]
  · obtain ⟨m, rfl⟩ := Nat.exists_eq_add_of_le' hn
    exact tick_iterate h m le
  · obtain ⟨m, rfl⟩ := Nat.exists_eq_add_of_le' pos
    rw [Function.iterate_succ_apply', tick_iterate h m le_rfl]
    exact tick_expires rfl le_rfl
  · exact expireTimer_of_free (siteEntry_eq_none free)
  · rw [expireTimer_of_site site, exec_expiry running site row, expireSite_idlePorts]
    exact ⟨expireSite_traffic tag e s, rfl⟩

/-! ## What an expiry does (R66, R109 to R111, R114) -/

/-- A second write at an index replaces the first. -/
theorem Sparse.insert_insert {α : Type} (m : Sparse α) (i : Nat) (a b : α) :
    Sparse.insert (Sparse.insert m i a) i b = Sparse.insert m i b := by
  induction m with
  | nil => simp [Sparse.insert]
  | cons p m ih =>
    obtain ⟨j, c⟩ := p
    rcases Nat.lt_trichotomy i j with below | rfl | above
    · simp [Sparse.insert, below]
    · simp [Sparse.insert]
    · simp [Sparse.insert, Nat.not_lt.2 above.le, above.ne', ih]

theorem leaveSite_eq {tag : Nat} {e : RevisitEntry} {s : State} (stored : Sparse.lookup s.rs.table tag = some e)
    (f : RevisitEntry → RevisitEntry) :
    leaveSite tag f s = { s with
      rs := { s.rs with timer := .stopped, table := Sparse.insert s.rs.table tag (f e) }, fe := { s.fe with context := none } } := by
  rw [leaveSite, modEntry_of_lookup (r := stopTimer s.rs) stored]
  rfl

/-- The attempt counted, and the entry then taken from its site. -/
theorem leaveSite_counted {tag : Nat} {e : RevisitEntry} {s : State} (stored : Sparse.lookup s.rs.table tag = some e)
    (f g : RevisitEntry → RevisitEntry) :
    leaveSite tag g { s with rs := modEntry tag f s.rs } = { s with
      rs := { s.rs with timer := .stopped, table := Sparse.insert s.rs.table tag (g (f e)) }
      fe := { s.fe with context := none } } := by
  rw [modEntry_of_lookup stored, leaveSite_eq (Sparse.lookup_insert_same ..), Sparse.insert_insert]

theorem failEntry_eq {tag : Nat} {e : RevisitEntry} {s : State} (stored : Sparse.lookup s.rs.table tag = some e)
    (site : isSite e.state = true) (reason : FailReason) :
    failEntry tag reason s = { s with
      rs := modTallies (countFailure e.kind reason)
        { s.rs with timer := .stopped, table := Sparse.insert s.rs.table tag { e with state := .failed } }
      fe := countIfCalibration e.kind { s.fe with context := none }
      ru := raiseIn s.pi.setup.enable .revisitFailed s.ru } := by
  simp only [failEntry, stored, site, if_true]
  rfl

theorem countFailure_calibration {kind : RevisitKind} (h : kind = .calibration) (reason : FailReason) (t : WaferTallies) :
    countFailure kind reason t = t := if_pos h

theorem countFailure_other {kind : RevisitKind} (h : kind ≠ .calibration) (reason : FailReason) (t : WaferTallies) :
    countFailure kind reason t = { t with failed := t.failed + 1, failedBy := countReason reason t.failedBy } := if_neg h

/-- Each reason has its own tally. -/
theorem countReason_eq (reason : FailReason) (f : FailTallies) :
    countReason reason f =
      { arrivalTimeout := f.arrivalTimeout + if reason = .arrivalTimeout then 1 else 0
        focusTimeout := f.focusTimeout + if reason = .focusTimeout then 1 else 0
        imageTimeout := f.imageTimeout + if reason = .imageTimeout then 1 else 0
        offWafer := f.offWafer + if reason = .offWafer then 1 else 0
        noMode := f.noMode + if reason = .noMode then 1 else 0
        imageFault := f.imageFault + if reason = .imageFault then 1 else 0 } := by
  cases reason <;> rfl

theorem countNotReviewed_eq (kind : RevisitKind) (t : WaferTallies) :
    countNotReviewed kind 1 t = { t with notReviewed := t.notReviewed + if kind = .calibration then 0 else 1 } := by
  unfold countNotReviewed
  split_ifs <;> rfl

/-- An expiry command whose row is not the site entry's state finds nothing to expire. -/
theorem expireIn_quiet {states : List RevisitState} {s : State}
    (h : s.rs.timer = .stopped ∨ siteEntry s.rs = none ∨ ∃ tag e, siteEntry s.rs = some (tag, e) ∧ e.state ∉ states) :
    expireIn states s = s := by
  unfold expireIn
  cases site : siteEntry s.rs with
  | none => rfl
  | some p =>
    obtain ⟨tag, e⟩ := p
    refine if_neg fun go => ?_
    obtain ⟨running, mem⟩ := Bool.and_eq_true_iff.1 go
    obtain stopped | free | ⟨tag', e', site', out⟩ := h
    · exact (timerRunning_iff _).1 running stopped
    · exact absurd (site.symm.trans free) (by simp)
    · obtain ⟨rfl, rfl⟩ : tag = tag' ∧ e = e' := by simpa using site.symm.trans site'
      exact out (List.contains_iff_mem.1 mem)

theorem expireSite_dispatched {e : RevisitEntry} (h : e.state = .dispatched) (tag : Nat) (s : State) :
    expireSite tag e s = expireArrival tag e s := by rw [expireSite, h]

/-- Settles O48: a quiet expiry by `expireIn_quiet`; the others by what each state's expiry does with the stored entry. -/
theorem expiriesOfTheStepTimer : Obligations.ExpiriesOfTheStepTimer := by
  unfold Obligations.ExpiriesOfTheStepTimer
  refine ⟨fun s c row quiet => ?quiet, fun s tag e running site stored => ?expires, fun s tag e reason stored site => ?fails⟩
  case quiet =>
    have stands : ∀ states : List RevisitState,
        (∀ tag e, siteEntry s.rs = some (tag, e) → (c = .arrivalStepExpiry → e.state ≠ .dispatched) →
          (c = .recallExpiry → e.state ≠ .recalling) → (c = .focusStepExpiry → e.state ≠ .arrived ∧ e.state ≠ .focusing) →
          (c = .imageStepExpiry → e.state ≠ .focused) → e.state ∉ states) →
        expireIn states (idlePorts s) = idlePorts s := fun states other => by
      refine expireIn_quiet ?_
      obtain stopped | free | ⟨tag, e, site, arriving, recalling, focusing, imaging⟩ := quiet
      · exact .inl stopped
      · exact .inr (.inl (siteEntry_eq_none free))
      · exact .inr (.inr ⟨tag, e, site, other tag e site arriving recalling focusing imaging⟩)
    obtain rfl | rfl | rfl | rfl := row
    all_goals exact congrArg Host.Outcome.next (stands _ fun tag e _ arriving recalling focusing imaging => by simp_all)
  case expires =>
    have run : ∀ c, ExpiresIn c e.state → exec c s = .next (expireSite tag e (idlePorts s)) := fun c row =>
      exec_expiry running site row
    have held : Sparse.lookup (idlePorts s).rs.table tag = some e := stored
    refine ⟨fun state more review => ⟨fun kind => ?_, fun kind => ?_⟩, fun state more ending => ?_, fun state spent => ?_,
      fun state => ?_, fun state => ?_, fun state => ?_⟩
    · rw [run _ (.inl ⟨state, rfl⟩), expireSite_dispatched state]
      simp only [expireArrival_requeues (s := idlePorts s) e more review, leaveSite_counted held, returnTag, if_pos kind]
      rfl
    · rw [run _ (.inl ⟨state, rfl⟩), expireSite_dispatched state]
      simp only [expireArrival_requeues (s := idlePorts s) e more review, leaveSite_counted held, returnTag, if_neg kind]
      rfl
    · rw [run _ (.inl ⟨state, rfl⟩), expireSite_dispatched state]
      simp only [expireArrival_ending (s := idlePorts s) e more ending, leaveSite_counted held, modTallies, countNotReviewed_eq]
      rfl
    · rw [run _ (.inl ⟨state, rfl⟩), expireSite_dispatched state]
      simp only [expireArrival_fails (s := idlePorts s) e spent, modEntry_of_lookup held]
      rfl
    · rw [run _ (.inr (.inl ⟨state, rfl⟩)), expireSite, state]
      simp only [makeRecall, leaveSite_eq held]
      rfl
    · rw [run _ (.inr (.inr (.inl ⟨state, rfl⟩))), expireSite]
      obtain state | state := state <;> rw [state] <;> rfl
    · rw [run _ (.inr (.inr (.inr ⟨state, rfl⟩))), expireSite, state]
      rfl
  case fails =>
    refine ⟨fun kind => ?_, fun kind => ?_⟩
    · rw [failEntry_eq stored site, countIfCalibration_calibration kind, modTallies, countFailure_calibration kind]
    · rw [failEntry_eq stored site, countIfCalibration_other kind, modTallies, countFailure_other kind, countReason_eq]

end Sys2Proof.Machine
end

section
/-! PROOFS. The Path Interface: bursts that pass (R1 to R4), the merge and the three checks of a post (R6 to R9), the mailbox's own
checks (R10), bulk claims (R12) and the tool clear (R22). -/

namespace Sys2Proof.Machine

/-! ## Bursts that pass -/

/-- Settles O5: a burst that is not decoded reaches no slot. -/
theorem trafficOutsideRegionPasses : Obligations.TrafficOutsideRegionPasses := by
  refine ⟨fun c b s target outside => ?_, fun c r s target outside => ?_⟩
  · rw [exec_write s target, writeStep_outside _ _ _ outside]
    rfl
  · obtain ⟨first, count, run⟩ := exec_read s target
    rw [run, readStep_memory _ _ _ _ _ (readPlace_outside outside)]
    rfl

/-- A staged slot's number is the slot's own. -/
theorem stagedNumber_of_stagedOfNumber {n : Nat} {slot : StagedSlot} (h : stagedOfNumber n = some slot) : stagedNumber slot = n := by
  unfold stagedOfNumber at h
  split at h
  next entry =>
    obtain rfl := Option.some.inj h
    simp only [stagedNumber]
    omega
  next => exact of_decide_eq_true (List.find?_some (p := fun t => decide (stagedNumber t = n)) h)

/-- In UNCONFIGURED no slot but the setup slot takes an effect (R4). -/
theorem treatSlot_unconfigured (d : Deciders) (role : Role) (b : WriteBurst) {n : Nat} {s : State} (part : s.pi.part = .unconfigured)
    (other : n ≠ 0) : treatSlot d role b n s = s := by
  unfold treatSlot
  split
  next slot named =>
    have off : slot ≠ .setup := fun h => other (by rw [← stagedNumber_of_stagedOfNumber named, h]; rfl)
    have inactive : stagedActive s.pi slot = false := by simp [stagedActive, part, off]
    split_ifs with mailbox
    · rw [mailboxStep, ← mailbox, inactive]; rfl
    · rw [stagedStep, inactive]; rfl
  next =>
    split
    · exact if_neg fun h => by simp [part] at h
    · rfl

theorem foldl_stands {α β : Type} {f : β → α → β} {s : β} : ∀ {l : List α}, (∀ n ∈ l, f s n = s) → l.foldl f s = s
  | [], _ => rfl
  | n :: l, h => by
    rw [List.foldl_cons, h n (by simp)]
    exact foldl_stands fun m hm => h m (by simp [hm])

/-- A burst whose slots take no effect only passes. -/
theorem exec_passes {c : Instr} {b : WriteBurst} {s : State} (target : writeTarget c = some b) (decoded : Decoded b.header s)
    (stands : ∀ p ∈ placedBeats b, treatSlot deciders (roleOf s.pi b.header) b (slotOfAddr s.pi.window p.addr)
      { s with traffic := passedTraffic b } = { s with traffic := passedTraffic b }) :
    exec c s = .next { s with traffic := passedTraffic b } := by
  rw [exec_write s target, writeStep, passesBy_of_decoded decoded]
  refine congrArg Host.Outcome.next (foldl_stands fun n mem => ?_)
  obtain ⟨p, hp, rfl⟩ := beat_of_mem_slotOrder mem
  exact stands p hp

/-- Settles O6: the slots of such a burst take no effect; the beats of such a read lie in no active served slot. -/
theorem inactiveSlotsPassTraffic : Obligations.InactiveSlotsPassTraffic := by
  refine ⟨fun c b s target decoded memory => ?_, fun c b s target decoded part other => ?_, fun c r s target decoded memory => ?_⟩
  · exact exec_passes target decoded fun p hp => treatSlot_none _ _ b _ (memory p hp).1 (memory p hp).2
  · exact exec_passes target decoded fun p hp => treatSlot_unconfigured _ _ b part (other p hp)
  · obtain ⟨first, count, run⟩ := exec_read s target
    have off : ∀ a ∈ readAddrs r, servedAt s.pi a = none := fun a ha => by
      rw [servedAt_eq decoded.1]
      split
      next z named =>
        obtain ⟨part, other⟩ := memory a ha z named
        exact if_neg (by simp [part, other])
      next => rfl
    rw [run, readStep_memory _ _ _ _ _ (readPlace_memory decoded off)]

/-! ## The merge and the checks of a post -/

/-- What a share without a post does in its slot: merged, or nothing (R6, R7). -/
theorem writeStep_merge {slot : StagedSlot} {b : WriteBurst} {s : State} (decoded : Decoded b.header s) (active : Active slot s)
    (lone : Lone (stagedNumber slot) b s) (quiet : isPost (stagedShare slot b s) = false) :
    writeStep deciders b s = { s with
      traffic := passedTraffic b
      pi := setBuffer slot (if mayWrite s.pi.part slot (roleOf s.pi b.header) = true then mergedBuffer slot b s
        else bufferOf s.pi slot) s.pi } := by
  by_cases mailbox : slot = .mailbox
  · subst mailbox
    rw [writeStep_mailbox deciders decoded lone, mailboxStep_merge _ _ _ decoded active quiet]
  · rw [writeStep_staged deciders mailbox decoded lone, stagedStep_merge _ _ _ _ decoded active quiet]

/-- Settles O7: by the merge of one slot's share. -/
theorem shareWithoutPostMerges : Obligations.ShareWithoutPostMerges := by
  intro c slot b s target decoded active lone quiet
  rw [exec_write s target, writeStep_merge decoded active lone quiet]
  refine ⟨fun may => ?_, fun foreign => ?_⟩
  · rw [if_pos may]
    rfl
  · rw [if_neg foreign, setBuffer_self]

theorem mergeBeat_of_strobes {p : PlacedBeat} (h : p.strobes ≠ 0) (u : StagingBuffer) :
    mergeBeat u p =
      { words := u.words.set (wordOfAddr p.addr).val (mergeBytes u.words[wordOfAddr p.addr] p.data p.strobes)
          (wordOfAddr p.addr).isLt
        marks := u.marks.set (wordOfAddr p.addr).val true (wordOfAddr p.addr).isLt } := if_neg h

/-- Settles O8: a beat without a strobe leaves the buffer; another changes the word it addresses, byte by strobed byte. -/
theorem mergedBytesAndMarks : Obligations.MergedBytesAndMarks := by
  intro u p w
  by_cases silent : p.strobes = 0
  · have stands : mergeBeat u p = u := if_pos silent
    simp [stands, silent]
  · by_cases here : wordOfAddr p.addr = w
    · subst here
      have strobed : ¬ p.strobes = 0#8 := silent
      simp [mergeBeat_of_strobes silent, byteAt_mergeBytes, strobed]
    · have off : (wordOfAddr p.addr).val ≠ w.val := fun h => here (Fin.ext h)
      simp [mergeBeat_of_strobes silent, here, Vector.getElem_set_ne _ _ off]

theorem mem_acceptedKinds_iff {slot : StagedSlot} (staged : slot ≠ .mailbox) (k : RecordKind) :
    k ∈ acceptedKinds slot ↔ ∃ own, ownersOf slot k = some own := by
  cases slot
  case mailbox => exact absurd rfl staged
  all_goals cases k <;> simp [acceptedKinds, ownersOf, onlyKind, withOwner, controlOwners]

/-- Settles O9: the three checks, with the slot's owners named by the kinds it accepts. -/
theorem postChecksInOrder : Obligations.PostChecksInOrder := by
  intro c slot b s target staged posts
  rw [exec_post target staged posts]
  refine ⟨fun foreign => ?_, fun may unknown => ?_, fun may k accepted kind unmarked => ?_⟩
  · rw [stagedStep_foreign _ _ _ _ posts foreign]
  · rw [stagedStep_unknownKind posts may fun k kind => ?_]
    refine Option.eq_none_iff_forall_ne_some.2 fun own owned => ?_
    exact unknown k ((mem_acceptedKinds_iff staged k).2 ⟨own, owned⟩) kind
  · obtain ⟨own, owned⟩ := (mem_acceptedKinds_iff staged k).1 accepted
    rw [stagedStep_incomplete posts may kind owned unmarked]

/-! ## The mailbox -/

theorem nullPostWord_fields (tag : BitVec 8) (reason : RewriteReason) :
    fld (nullPostWord tag reason) 0 8 = 0 ∧ fld (nullPostWord tag reason) 8 8 = tag.toNat
    ∧ fld (nullPostWord tag reason) 16 8 = reasonCode (some reason) ∧ fld (nullPostWord tag reason) 24 40 = 0 := by
  have code : reasonCode (some reason) < 256 := by cases reason <;> decide
  have small : tag.toNat < 256 := tag.isLt
  simp [nullPostWord, fld_or, fld_put_same, fld_put_apart, Nat.mod_eq_of_lt code, Nat.mod_eq_of_lt small]

theorem placedBeats_length (b : WriteBurst) : (placedBeats b).length = b.beats.length := by simp [placedBeats]

theorem heldBeat_iff (k : BitVec 3) (p : PlacedBeat) :
    heldBeat k p = true ↔ regionBase k ≤ p.addr ∧ slotOfAddr k p.addr = 192 ∧ writesWord p 7 = true := by
  simp [heldBeat, stagedNumber, and_assoc]

/-- Settles O11: the checks by the mailbox's rules; a rewritten burst beat by beat; the NULL post word field by field. -/
theorem mailboxChecksOfTheInterface : Obligations.MailboxChecksOfTheInterface := by
  refine ⟨fun c b s target posts => ?_, fun k tag reason b => ⟨?_, fun i hb hp hr => ?_⟩, nullPostWord_fields⟩
  · rw [exec_mailbox target posts]
    refine ⟨fun foreign => ?_, fun may kind => ?_, fun may kind unmarked => ?_⟩
    · rw [mailboxStep_foreign _ _ _ posts foreign]
    · rw [mailboxStep_wrongKind _ _ _ posts may kind]
    · have missing : ∃ w ∈ usedWords .handlerCommand, (mergedBuffer .mailbox b s).marks[w] = false := by
        obtain h | h := unmarked
        · exact ⟨6, by decide, h⟩
        · exact ⟨7, by decide, h⟩
      rw [mailboxStep_incomplete _ _ _ posts may kind missing]
  · simp [rewriteBeats, placedBeats_length]
  · simp only [rewriteBeats, List.getElem_zipWith]
    exact ⟨fun held => if_pos ((heldBeat_iff k _).2 held), fun free => if_neg fun held => free ((heldBeat_iff k _).1 held)⟩

/-! ## Bulk claims -/

theorem fullLine_iff (h : BurstHeader) (share : List PlacedBeat) : fullLine h share = true ↔
    beatBytes h = 8 ∧ (∀ p ∈ share, p.strobes = 255)
    ∧ ∀ w : Fin 8, ∃ p, (share.filter fun q => decide (wordOfAddr q.addr = w)) = [p] := by
  have once : ∀ w : Fin 8, (share.filter fun q => wordOfAddr q.addr == w).length = 1
      ↔ ∃ p, (share.filter fun q => decide (wordOfAddr q.addr = w)) = [p] := fun w => List.length_eq_one_iff
  simp only [fullLine, Bool.and_eq_true, beq_iff_eq, List.all_eq_true, List.mem_finRange, forall_true_left, once, and_assoc]
  exact and_congr_right fun _ => and_comm

/-- A word of a line is written by the beats that address it, the last of them standing. -/
theorem lineWords_getElem (share : List PlacedBeat) (w : Fin 8) :
    (lineWords share)[w] = (share.filter fun q => decide (wordOfAddr q.addr = w)).foldl (fun _ q => q.data) 0 := by
  have from_line : ∀ l : Line, (share.foldl (fun l q => l.set (wordOfAddr q.addr).val q.data (wordOfAddr q.addr).isLt) l)[w]
      = (share.filter fun q => decide (wordOfAddr q.addr = w)).foldl (fun _ q => q.data) l[w] := by
    induction share with
    | nil => exact fun _ => rfl
    | cons q share ih =>
      intro l
      rw [List.foldl_cons, ih]
      by_cases here : wordOfAddr q.addr = w
      · subst here
        simp
      · have off : (wordOfAddr q.addr).val ≠ w.val := fun h => here (Fin.ext h)
        simp [here, Vector.getElem_set_ne _ _ off]
  rw [lineWords, from_line]
  simp [zeroLine]

/-- A full line has one beat for each word. -/
theorem fullLine_words {h : BurstHeader} {share : List PlacedBeat} (full : fullLine h share = true) :
    (share.map fun q => wordOfAddr q.addr).Perm (List.finRange 8) := by
  rw [List.perm_iff_count]
  intro w
  obtain ⟨p, only⟩ := ((fullLine_iff h share).1 full).2.2 w
  have counted : (share.map fun q => wordOfAddr q.addr).count w = (share.filter fun q => decide (wordOfAddr q.addr = w)).length := by
    rw [List.count, List.countP_map, List.countP_eq_length_filter]
    rfl
  rw [counted, only, List.count_eq_one_of_mem (List.nodup_finRange 8) (List.mem_finRange w)]
  rfl

/-- Settles O12: the claim's checks, and what a full line is, word by word. -/
theorem bulkClaimsRefused : Obligations.BulkClaimsRefused := by
  refine ⟨fun c slot b s target claims => ?_, fullLine_iff, fun h share full => ⟨?_, fun p hp => ?_⟩⟩
  · rw [exec_claim target claims]
    refine ⟨fun foreign => ?_, fun role broken => ?_⟩
    · rw [bulkStep_foreign _ _ _ _ claims foreign]
    · rw [bulkStep_partial _ _ _ _ claims role broken]
  · simpa using (fullLine_words full).length_eq
  · obtain ⟨q, only⟩ := ((fullLine_iff h share).1 full).2.2 (wordOfAddr p.addr)
    have mem : p ∈ share.filter fun q => decide (wordOfAddr q.addr = wordOfAddr p.addr) := by simp [hp]
    rw [only, List.mem_singleton] at mem
    rw [lineWords_getElem, only, mem]
    rfl

/-! ## CLEAR -/

/-- With one kind pending, ATTN is the kind's enable (R160). -/
theorem attnOf_set (enable : EventSet) (e : EventKind) : attnOf enable e.set = enable.getLsbD e.bit.val := by
  have single : e.set = BitVec.twoPow 12 e.bit.val := by cases e <;> rfl
  have kept : BitVec.twoPow 12 e.bit.val ≠ 0 := by cases e <;> decide
  rw [attnOf, single, BitVec.twoPow_and, Bool.eq_iff_iff, bne_iff_ne]
  split_ifs with enabled
  · exact iff_of_true kept enabled
  · exact iff_of_false (fun h => h rfl) enabled

/-- Settles O14: the clear is its owner's decision, whole, on the offered state. -/
theorem clearIsTheToolClear : Obligations.ClearIsTheToolClear := by
  intro b s offers
  have attention : s.pi.setup.enable.getLsbD 11 = attnOf s.pi.setup.enable EventKind.clearDone.set := (attnOf_set _ .clearDone).symm
  rw [exec_post (c := .clear b) rfl (by decide) offers.1, stagedStep_take offers (own := decideClear) rfl rfl, attention]
  simp only [toolClear, clearInterface, offeredState, clearMarks, bufferOf, setBuffer, Vector.getElem_set_self, Fin.getElem_fin]
  rfl

end Sys2Proof.Machine
end

section
/-! PROOFS. The records the part composes: the status and event records and their reads (R13, R161, R162, R169), and the wafer report
(R155, R156, R170). -/

namespace Sys2Proof.Machine

/-! ## Fields of composed words -/

/-- A field inside the one put reads its part of the value. -/
theorem fld_put_within {lo n k m : Nat} (v : Nat) (room : lo + n ≤ 64) (inside : k + m ≤ n) :
    fld (put lo n v) (lo + k) m = v / 2 ^ k % 2 ^ m := by
  apply Nat.eq_of_testBit_eq
  intro i
  simp only [fld_testBit, put_getLsbD, Nat.testBit_mod_two_pow, Nat.testBit_div_two_pow]
  by_cases hi : i < m
  · have h1 : lo + k + i < 64 := by omega
    have h2 : lo + k + i - lo = i + k := by omega
    have h3 : lo ≤ lo + k + i := by omega
    have h4 : i + k < n := by omega
    simp [hi, h1, h2, h3, h4]
  · simp [hi]

theorem fld_zero (lo n : Nat) : fld 0 lo n = 0 := by simp [fld]

/-- A signed field reads back the value put in it. -/
theorem sfld_of_fld {w : Word} {lo k : Nat} {v : Int} (stored : fld w lo (k + 1) = (v % 2 ^ (k + 1)).toNat)
    (low : -2 ^ k ≤ v) (high : v < 2 ^ k) : sfld w lo (k + 1) = v := by
  have double : (2 : Int) ^ (k + 1) = 2 * 2 ^ k := by rw [pow_succ, mul_comm]
  have value : ((fld w lo (k + 1) : Nat) : Int) = if 0 ≤ v then v else v + 2 * 2 ^ k := by
    rw [stored, double, Int.toNat_of_nonneg (Int.emod_nonneg _ (by positivity))]
    split_ifs with sign
    · exact Int.emod_eq_of_lt sign (by omega)
    · rw [← Int.add_emod_right]
      exact Int.emod_eq_of_lt (by omega) (by omega)
  have half : fld w lo (k + 1) < 2 ^ k ↔ 0 ≤ v := by
    have cast : ((2 ^ k : Nat) : Int) = 2 ^ k := by simp
    rw [← Int.ofNat_lt, cast, value]
    split_ifs <;> omega
  rw [sfld, Nat.add_sub_cancel, value, double]
  by_cases sign : 0 ≤ v
  · rw [if_pos (half.2 sign), if_pos sign]
  · rw [if_neg (mt half.1 sign), if_neg sign]
    omega

/-- Two signed values share a word. -/
theorem sfld_pair (x y : Int) :
    (-2147483648 ≤ x → x < 2147483648 → sfld (putS 0 32 x ||| putS 32 32 y) 0 32 = x)
    ∧ (-2147483648 ≤ y → y < 2147483648 → sfld (putS 0 32 x ||| putS 32 32 y) 32 32 = y) := by
  have reads : ∀ v : Int, (v % 2 ^ 32).toNat % 2 ^ 32 = (v % 2 ^ 32).toNat := fun v => Nat.mod_eq_of_lt (by omega)
  refine ⟨fun low high => sfld_of_fld (k := 31) ?_ low high, fun low high => sfld_of_fld (k := 31) ?_ low high⟩
  · rw [fld_or, putS, putS, fld_put_same _ (by decide), fld_put_apart _ (by decide), Nat.or_zero]
    exact reads x
  · rw [fld_or, putS, putS, fld_put_same _ (by decide), fld_put_apart _ (by decide), Nat.zero_or]
    exact reads y

/-- A field of a union over a list is the union of the fields. -/
theorem fld_foldl_or {α : Type} (p : α → Prop) [DecidablePred p] (g : α → Word) (lo n : Nat) (l : List α) (w : Word) :
    fld (l.foldl (fun w d => if p d then w ||| g d else w) w) lo n =
      l.foldl (fun x d => if p d then x ||| fld (g d) lo n else x) (fld w lo n) := by
  induction l generalizing w with
  | nil => rfl
  | cons d l ih =>
    rw [List.foldl_cons, List.foldl_cons, ih]
    split_ifs
    · rw [fld_or]
    · rfl

/-! ## The status record -/

theorem IdState.code_lt (i : IdState) : i.code < 16 := by cases i <;> decide

theorem Location.code_lt (l : Location) : l.code < 16 := by cases l <;> decide

/-- The byte of a slot stands in the status record at the slot's place, and no other slot's bits reach it. -/
theorem fld_statusSlots (t : WaferTracker) (c : CarrierSlot) (k : Nat) (inside : k + 4 ≤ 8) :
    fld (statusSlots t (c.val / 8)) (8 * (c.val % 8) + k) 4 = statusByte (slotOf t c) / 2 ^ k % 2 ^ 4 := by
  rw [statusSlots, fld_foldl_or, foldl_lone (n := c) _ _ allSlots (List.nodup_finRange 25) ?_
    fun out => absurd (List.mem_finRange c) out]
  · rw [if_pos rfl, fld_zero, Nat.zero_or]
    exact fld_put_within _ (by omega) inside
  · intro d _ other x
    split_ifs with word
    · have place : d.val % 8 ≠ c.val % 8 := fun h => other (Fin.ext (by omega))
      rw [fld_put_apart _ (by omega), Nat.or_zero]
    · rfl

theorem fld_statusByte (t : WaferTracker) (c : CarrierSlot) :
    fld (statusSlots t (c.val / 8)) (8 * (c.val % 8)) 4 = (slotOf t c).location.code
      ∧ fld (statusSlots t (c.val / 8)) (8 * (c.val % 8) + 4) 4 = (slotOf t c).idState.code := by
  have location := (slotOf t c).location.code_lt
  have identity := (slotOf t c).idState.code_lt
  have low := fld_statusSlots t c 0 (by decide)
  have high := fld_statusSlots t c 4 (by decide)
  simp only [statusByte, Nat.add_zero] at low high
  omega

theorem statusRecord_slots (s : State) (c : CarrierSlot) :
    (statusRecord s)[3 + c.val / 8]'(by omega) = statusSlots s.wt (c.val / 8) := by
  have group : c.val / 8 = 0 ∨ c.val / 8 = 1 ∨ c.val / 8 = 2 ∨ c.val / 8 = 3 := by omega
  obtain h | h | h | h := group <;> simp only [h] <;> rfl

theorem outcomeCode_lt (o : Option PostOutcome) : outcomeCode o < 256 := by
  cases o with
  | none => decide
  | some o => cases o <;> decide

theorem reasonCode_lt (r : Option RewriteReason) : reasonCode r < 256 := by
  cases r with
  | none => decide
  | some r => cases r <;> decide

theorem fld_postRecordBits (p : PostRecord) :
    fld (postRecordBits p) 0 14 = p.slot % 16384 ∧ fld (postRecordBits p) 16 8 = p.tag.toNat
      ∧ fld (postRecordBits p) 24 8 = outcomeCode p.outcome := by
  have tag : p.tag.toNat < 256 := p.tag.isLt
  simp [postRecordBits, fld_or, fld_put_same, fld_put_apart, Nat.mod_eq_of_lt (outcomeCode_lt p.outcome), Nat.mod_eq_of_lt tag]

theorem fld_postRecordBits_high {lo n : Nat} (p : PostRecord) (h : 32 ≤ lo) : fld (postRecordBits p) lo n = 0 := by
  rw [postRecordBits, fld_or, fld_or, fld_put_apart _ (.inr (by omega)), fld_put_apart _ (.inr (by omega)),
    fld_put_apart _ (.inr (by omega))]
  rfl

theorem eventRecord_fields (r : ReportUnit) :
    fld (eventRecord r)[0] 0 12 = r.pendingEvents.toNat ∧ fld (eventRecord r)[0] 12 52 = 0
    ∧ fld (eventRecord r)[1] 0 14 = r.lastRefusal.slot % 16384 ∧ fld (eventRecord r)[1] 16 8 = r.lastRefusal.tag.toNat
    ∧ fld (eventRecord r)[1] 24 8 = outcomeCode r.lastRefusal.outcome
    ∧ fld (eventRecord r)[1] 32 8 = reasonCode r.lastRewrite ∧ fld (eventRecord r)[1] 48 16 = r.lost % 65536 := by
  have pending : r.pendingEvents.toNat < 4096 := r.pendingEvents.isLt
  obtain ⟨slot, tag, outcome⟩ := fld_postRecordBits r.lastRefusal
  simp [eventRecord, lineOf, fld_or, fld_put_same, fld_put_apart, fld_postRecordBits_high, slot, tag, outcome,
    Nat.mod_eq_of_lt pending, Nat.mod_eq_of_lt (reasonCode_lt r.lastRewrite)]

theorem statusWord0_fields (s : State) :
    fld (statusWord0 s) 0 4 = s.pi.part.code ∧ fld (statusWord0 s) 4 3 = s.pi.window.toNat
    ∧ fld (statusWord0 s) 8 4 = s.wt.lot.code ∧ fld (statusWord0 s) 12 4 = s.wt.channel.code
    ∧ fld (statusWord0 s) 16 8 = faultedSlot s.wt.channel ∧ fld (statusWord0 s) 29 1 = (haltedFlag s.wt.channel).toNat
    ∧ fld (statusWord0 s) 24 4 = s.rs.session.state.code ∧ fld (statusWord0 s) 28 1 = s.ru.reportLost.toNat
    ∧ fld (statusWord0 s) 32 8 = (s.rs.session.chamberSlot.map slotNumber).getD 0
    ∧ fld (statusWord0 s) 40 4 = ((siteEntry s.rs).map fun p => siteCode p.2.state).getD 0
    ∧ fld (statusWord0 s) 48 10 = ((siteEntry s.rs).map Prod.fst).getD 0 % 1024
    ∧ fld (statusWord0 s) 60 3 = s.rs.lane.length % 8 := by
  have part : s.pi.part.code < 16 := by cases s.pi.part <;> decide
  have window : s.pi.window.toNat < 8 := s.pi.window.isLt
  have lot : s.wt.lot.code < 16 := by cases s.wt.lot <;> decide
  have channel : s.wt.channel.code < 16 := by cases s.wt.channel <;> simp [Channel.code]
  have faulted : faultedSlot s.wt.channel < 256 := by
    cases s.wt.channel
    case halted c v p => exact Nat.lt_of_le_of_lt (Nat.succ_le_of_lt c.isLt) (by decide)
    all_goals exact Nat.zero_lt_succ 255
  have session : s.rs.session.state.code < 16 := by cases s.rs.session.state <;> decide
  have chamber : (s.rs.session.chamberSlot.map slotNumber).getD 0 < 256 := by
    cases s.rs.session.chamberSlot with
    | none => decide
    | some c => exact Nat.lt_of_le_of_lt (Nat.succ_le_of_lt c.isLt) (by decide)
  have site : ((siteEntry s.rs).map fun p => siteCode p.2.state).getD 0 < 16 := by
    cases siteEntry s.rs with
    | none => decide
    | some p =>
      show siteCode p.2.state < 16
      cases p.2.state <;> decide
  have lost : s.ru.reportLost.toNat < 2 := s.ru.reportLost.toNat_lt
  have halted : (haltedFlag s.wt.channel).toNat < 2 := (haltedFlag s.wt.channel).toNat_lt
  simp only [statusWord0, putBit, fld_or]
  simp [fld_put_same, fld_put_apart, Nat.mod_eq_of_lt, *]

theorem statusWord1_fields (s : State) :
    fld (statusRecord s)[1] 0 32 = s.wt.lotNumber.toNat ∧ fld (statusRecord s)[1] 32 10 = s.rs.queue.length % 1024
    ∧ fld (statusRecord s)[1] 48 10 = s.ru.fifo.length % 1024 := by
  have lot : s.wt.lotNumber.toNat < 4294967296 := s.wt.lotNumber.isLt
  simp [statusRecord, lineOf, fld_or, fld_put_same, fld_put_apart, Nat.mod_eq_of_lt lot]

theorem statusWord2_fields (s : State) :
    fld (statusRecord s)[2] 0 14 = s.pi.lastPost.slot % 16384 ∧ fld (statusRecord s)[2] 16 8 = s.pi.lastPost.tag.toNat
    ∧ fld (statusRecord s)[2] 24 8 = outcomeCode s.pi.lastPost.outcome ∧ fld (statusRecord s)[2] 32 16 = s.pi.refusals % 65536
    ∧ fld (statusRecord s)[2] 48 16 = s.ru.lost % 65536 := by
  obtain ⟨slot, tag, outcome⟩ := fld_postRecordBits s.pi.lastPost
  simp [statusRecord, lineOf, fld_or, fld_put_same, fld_put_apart, fld_postRecordBits_high, slot, tag, outcome]

/-! ## Reads of the status and event slots -/

/-- A read of a served slot other than the report window, under any row (R13). -/
theorem exec_served {c : Instr} {z : ServedSlot} {r : ReadBurst} {s : State} (target : readTarget c = some r)
    (window : z ≠ .reportWindow) (h : ReadsSlot z r s) :
    exec c s = .next { (serveTable z (roleOf s.pi r.header) s).2 with
      traffic := recordTraffic r (serveTable z (roleOf s.pi r.header) s).1 } := by
  obtain ⟨first, count, run⟩ := exec_read s target
  rw [run, readStep_served window h]

/-- Settles O16: the two answers by the served table, the two records field by field, the codes by their table. -/
theorem statusAndEventReads : Obligations.StatusAndEventReads := by
  refine ⟨fun c r s target reads => exec_served target (by decide) reads,
    fun r s reads => ⟨fun role => ?acting, fun role => ?other⟩, eventRecord_fields, fun s => ?fields, ?codes⟩
  case acting =>
    rw [exec_served (c := .eventRead r) rfl (by decide) reads]
    simp only [serveTable, serveEvent, if_pos role]
    simp [clearEvents, syncAttn, attnOf]
  case other =>
    rw [exec_served (c := .eventRead r) rfl (by decide) reads]
    simp only [serveTable, serveEvent, if_neg role]
  case fields =>
    obtain ⟨part, window, lot, channel, faulted, halted, session, lost, chamber, siteState, siteTag, lane⟩ := statusWord0_fields s
    obtain ⟨lotNumber, queue, fifo⟩ := statusWord1_fields s
    obtain ⟨postSlot, postTag, postOutcome, refusals, dropped⟩ := statusWord2_fields s
    refine ⟨part, window, lot, channel, fun c v p h => ?_, fun h => ?_, session, lost, fun c h => ?_, fun h => ?_,
      fun tag e h => ?_, fun h => ?_, lane, lotNumber, queue, fifo, postSlot, postTag, postOutcome, refusals, dropped,
      fun c => ?_, rfl⟩
    · rw [h] at faulted halted
      exact ⟨faulted, halted⟩
    · cases held : s.wt.channel with
      | halted c v p => exact absurd held (h c v p)
      | idle | outstanding => rw [held] at faulted halted; exact ⟨faulted, halted⟩
    · rw [h] at chamber
      exact chamber
    · rw [h] at chamber
      exact chamber
    · rw [h] at siteState siteTag
      exact ⟨siteState, siteTag⟩
    · rw [siteEntry_eq_none h] at siteState siteTag
      exact ⟨siteState, siteTag⟩
    · rw [statusRecord_slots]
      exact fld_statusByte s.wt c
  case codes => exact ⟨rfl, rfl, fun _ _ _ _ => ⟨rfl, rfl, rfl⟩, rfl, rfl, rfl, rfl⟩

/-! ## The wafer report -/

/-- The pairs of the class list, by the classes whose count is not zero. -/
theorem classPairs_eq (h : Vector Nat 64) :
    classPairs h = ((List.finRange 64).filter fun i => h[i] ≠ 0).map fun i => (i.val, h[i]) := by
  unfold classPairs
  induction List.finRange 64 with
  | nil => rfl
  | cons i l ih => by_cases zero : h[i] = 0 <;> simp_all

theorem pairWords_length (pairs : List (Nat × Nat)) : (pairWords pairs).length = (pairs.length + 3) / 4 := by
  induction pairs using pairWords.induct with
  | case5 a b c d rest ih => simp only [pairWords, List.length_cons, ih]; omega
  | _ => simp [pairWords]

/-- Four pairs stand in each word of the class list, the places past the last pair empty. -/
theorem pairWords_fields (pairs : List (Nat × Nat)) (i : Nat) (hi : i / 4 < (pairWords pairs).length) :
    (∀ h : i < pairs.length, fld (pairWords pairs)[i / 4] (16 * (i % 4)) 6 = pairs[i].1 % 64
      ∧ fld (pairWords pairs)[i / 4] (16 * (i % 4) + 6) 10 = pairs[i].2 % 1024)
    ∧ (pairs.length ≤ i → fld (pairWords pairs)[i / 4] (16 * (i % 4)) 16 = 0) := by
  induction pairs using pairWords.induct generalizing i with
  | case1 => simp [pairWords] at hi
  | case5 a b c d rest ih =>
    by_cases first : i < 4
    · interval_cases i <;> simp [pairWords, pairBits, fld_or, fld_put_same, fld_put_apart]
    · obtain ⟨j, rfl⟩ := Nat.exists_eq_add_of_le' (Nat.not_lt.1 first)
      have later : (j + 4) / 4 = j / 4 + 1 := by omega
      have inside : j / 4 < (pairWords rest).length := by simpa [pairWords, later] using hi
      simpa [pairWords, later] using ih j inside
  | _ =>
    have first : i < 4 := by simpa [pairWords] using hi
    interval_cases i <;> simp [pairWords, pairBits, fld_or, fld_put_same, fld_put_apart]

/-- The greatest count bounds every zone's, and is a zone's unless it is 0. -/
theorem greatestCount_spec (zones : Sparse Zone) :
    (∀ p ∈ zones, p.2.count ≤ greatestCount zones)
    ∧ (greatestCount zones = 0 ∨ ∃ p ∈ zones, p.2.count = greatestCount zones) := by
  have from_least : ∀ (l : List Nat) (n : Nat), n ≤ l.foldl max n ∧ (∀ x ∈ l, x ≤ l.foldl max n)
      ∧ (l.foldl max n = n ∨ l.foldl max n ∈ l) := by
    intro l
    induction l with
    | nil => simp
    | cons x l ih =>
      intro n
      obtain ⟨low, bound, reached⟩ := ih (max n x)
      simp only [List.foldl_cons, List.mem_cons]
      refine ⟨by omega, ?_, ?_⟩
      · rintro y (rfl | hy)
        · omega
        · exact bound y hy
      · obtain h | h := reached
        · obtain h' | h' := Nat.le_total n x <;> simp_all
        · exact .inr (.inr h)
  obtain ⟨-, bound, reached⟩ := from_least (zones.map fun p => p.2.count) 0
  refine ⟨fun p hp => bound _ (List.mem_map_of_mem hp), reached.imp_right fun h => ?_⟩
  exact List.mem_map.1 h

theorem byteAt_idWords (i : Option WaferId) (j : Fin 12) :
    (if j.val < 8 then byteAt (idWords i).1 j.val else byteAt (idWords i).2 (j.val - 8)) =
      match i with
      | some v => v[j]
      | none => 0 := by
  cases i with
  | none => simp [idWords, byteAt, fld]
  | some v =>
    have byte : ∀ b : Byte, BitVec.ofNat 8 (b.toNat % 256) = b := fun b => by
      rw [Nat.mod_eq_of_lt b.isLt]
      simp
    fin_cases j <;> simp [idWords, byteAt, List.finRange, fld_or, fld_put_same, fld_put_apart, byte]

theorem reportFlags_fields (slot : SlotRecord) (aligned : Bool) (a : FocusStats) :
    fld (reportFlags slot aligned a) 0 1 = slot.rangeFault.toNat ∧ fld (reportFlags slot aligned a) 1 1 = aligned.toNat
    ∧ fld (reportFlags slot aligned a) 4 4 = slot.idState.code ∧ fld (reportFlags slot aligned a) 8 8 = a.calRun % 256
    ∧ fld (reportFlags slot aligned a) 16 8 = a.calSuppressed % 256 ∧ fld (reportFlags slot aligned a) 24 8 = a.calUnmeasured % 256 := by
  have range : slot.rangeFault.toNat < 2 := slot.rangeFault.toNat_lt
  have mark : aligned.toNat < 2 := aligned.toNat_lt
  have identity := slot.idState.code_lt
  simp [reportFlags, putBit, fld_or, fld_put_same, fld_put_apart, Nat.mod_eq_of_lt range, Nat.mod_eq_of_lt mark,
    Nat.mod_eq_of_lt identity]

/-- The extremes stand in the report when the accepted count is not zero (log 30). -/
theorem extremesWords_fields (a : FocusStats) :
    (a.accepted = 0 → extremesWords a = [])
    ∧ (a.accepted ≠ 0 → ∃ w8, extremesWords a = [w8]
      ∧ (-2147483648 ≤ a.minFocus → a.minFocus < 2147483648 → sfld w8 0 32 = a.minFocus)
      ∧ (-2147483648 ≤ a.maxFocus → a.maxFocus < 2147483648 → sfld w8 32 32 = a.maxFocus)) :=
  ⟨fun h => if_pos h, fun h => ⟨_, if_neg h, sfld_pair a.minFocus a.maxFocus⟩⟩

theorem extremesWords_length (a : FocusStats) : (extremesWords a).length = if a.accepted = 0 then 0 else 1 := by
  unfold extremesWords
  split_ifs <;> rfl

theorem waferReport_length (c : CarrierSlot) (slot : SlotRecord) (n : Session) (f : FocusEngine) :
    (waferReport c slot n f).length =
      8 + (if f.stats.accepted = 0 then 0 else 1) + (((List.finRange 64).filter fun i => n.histogram[i] ≠ 0).length + 3) / 4 := by
  simp only [waferReport, tallyWords, List.length_append, List.length_cons, List.length_nil, extremesWords_length, pairWords_length,
    classPairs_eq, List.length_map]

theorem waferReport_header (c : CarrierSlot) {length : Nat} (short : length ≤ 25) :
    let w0 := put 0 8 1 ||| put 8 8 length ||| put 16 8 (slotNumber c)
    fld w0 0 8 = 1 ∧ fld w0 8 8 = length ∧ fld w0 16 8 = c.val + 1 ∧ fld w0 24 40 = 0 := by
  have number : c.val + 1 < 256 := by omega
  have small : length < 256 := by omega
  simp [fld_or, fld_put_same, fld_put_apart, slotNumber, Nat.mod_eq_of_lt number, Nat.mod_eq_of_lt small]

theorem tallyWords_fields (t : WaferTallies) : ∃ w3 w4 w5, tallyWords t = [w3, w4, w5]
    ∧ (fld w3 0 16 = t.selected % 65536 ∧ fld w3 16 16 = t.skipped % 65536 ∧ fld w3 32 16 = t.overCap % 65536
      ∧ fld w3 48 16 = t.absent % 65536)
    ∧ (fld w4 0 9 = t.classified % 512 ∧ fld w4 9 9 = t.notFound % 512 ∧ fld w4 18 9 = t.failed % 512
      ∧ fld w4 27 9 = t.notReviewed % 512 ∧ fld w4 36 2 = t.urgentAdded % 4 ∧ fld w4 48 16 = t.restarts % 65536)
    ∧ fld w5 0 9 = t.failedBy.arrivalTimeout % 512 ∧ fld w5 9 9 = t.failedBy.focusTimeout % 512
      ∧ fld w5 18 9 = t.failedBy.imageTimeout % 512 ∧ fld w5 27 9 = t.failedBy.offWafer % 512
      ∧ fld w5 36 9 = t.failedBy.noMode % 512 ∧ fld w5 45 9 = t.failedBy.imageFault % 512 := by
  refine ⟨_, _, _, rfl, ?_⟩
  simp [fld_or, fld_put_same, fld_put_apart]

theorem focusWord_fields (a : FocusStats) (zones : Sparse Zone) :
    fld (focusWord a zones) 0 12 = a.accepted % 4096 ∧ fld (focusWord a zones) 12 12 = a.residualHigh % 4096
    ∧ fld (focusWord a zones) 24 12 = a.residualLow % 4096 ∧ fld (focusWord a zones) 36 8 = a.driftEvents % 256
    ∧ fld (focusWord a zones) 44 8 = zonesMeasured zones % 256 ∧ fld (focusWord a zones) 52 8 = greatestCount zones % 256 := by
  simp [focusWord, fld_or, fld_put_same, fld_put_apart]

/-- The class list of a histogram, four classes to a word. -/
theorem classList_fields (h : Vector Nat 64) (i : Nat) (hi : i / 4 < (pairWords (classPairs h)).length) :
    (∀ here : i < ((List.finRange 64).filter fun i => h[i] ≠ 0).length,
      fld (pairWords (classPairs h))[i / 4] (16 * (i % 4)) 6 = (((List.finRange 64).filter fun i => h[i] ≠ 0)[i]).val
      ∧ fld (pairWords (classPairs h))[i / 4] (16 * (i % 4) + 6) 10 = h[((List.finRange 64).filter fun i => h[i] ≠ 0)[i]] % 1024)
    ∧ (((List.finRange 64).filter fun i => h[i] ≠ 0).length ≤ i → fld (pairWords (classPairs h))[i / 4] (16 * (i % 4)) 16 = 0) := by
  obtain ⟨inside, past⟩ := pairWords_fields (classPairs h) i hi
  have same : (classPairs h).length = ((List.finRange 64).filter fun i => h[i] ≠ 0).length := by rw [classPairs_eq, List.length_map]
  refine ⟨fun here => ?_, fun out => past (same.trans_le out)⟩
  obtain ⟨cls, count⟩ := inside (here.trans_eq same.symm)
  have pair : (classPairs h)[i]'(here.trans_eq same.symm) =
      ((((List.finRange 64).filter fun i => h[i] ≠ 0)[i]).val, h[((List.finRange 64).filter fun i => h[i] ≠ 0)[i]]) := by
    simp only [classPairs_eq, List.getElem_map]
  rw [pair] at cls count
  exact ⟨cls.trans (Nat.mod_eq_of_lt (((List.finRange 64).filter fun i => h[i] ≠ 0)[i]).isLt), count⟩

/-- Settles O19: the report's words read back field by field, the class list by induction on its words. -/
theorem waferReportFields : Obligations.WaferReportLength := by
  intro c slot n f
  have length := waferReport_length c slot n f
  have few : ((List.finRange 64).filter fun i => n.histogram[i] ≠ 0).length ≤ 64 :=
    (List.length_filter_le _ _).trans_eq List.length_finRange
  have short : (waferReport c slot n f).length ≤ 25 := by rw [length]; split_ifs <;> omega
  have declared : waferReportLength f.stats (classPairs n.histogram).length = (waferReport c slot n f).length := by
    rw [length, waferReportLength, classPairs_eq, List.length_map]
  have list : (pairWords (classPairs n.histogram)).length = (((List.finRange 64).filter fun i => n.histogram[i] ≠ 0).length + 3) / 4 := by
    rw [pairWords_length, classPairs_eq, List.length_map]
  obtain ⟨kind, size, carrier, rest⟩ := waferReport_header c (declared.trans_le short)
  obtain ⟨bound, reached⟩ := greatestCount_spec f.zones
  obtain ⟨range, mark, identity, calRun, calSuppressed, calUnmeasured⟩ := reportFlags_fields slot n.aligned f.stats
  obtain ⟨absent, extremes⟩ := extremesWords_fields f.stats
  obtain ⟨accepted, high, low, drift, measured, greatest⟩ := focusWord_fields f.stats f.zones
  obtain ⟨w3, w4, w5, tallies, ⟨selected, skipped, overCap, missing⟩,
    ⟨classified, notFound, failed, notReviewed, urgentAdded, restarts⟩, failedBy⟩ := tallyWords_fields n.tallies
  obtain ⟨arrival, focus, image, offWafer, noMode, imageFault⟩ := failedBy
  have inside : ∀ i, i < 4 * (pairWords (classPairs n.histogram)).length → i / 4 < (pairWords (classPairs n.histogram)).length :=
    fun i hi => by omega
  exact ⟨length, by rw [length]; omega, short, _, _, _, w3, w4, w5, _, _, extremesWords f.stats, pairWords (classPairs n.histogram),
    by rw [waferReport, tallies]; rfl, kind, size.trans declared, carrier, rest, fun j => (byteAt_idWords slot.readId j).trans
      (by cases slot.readId <;> rfl),
    selected, skipped, overCap, missing, classified, notFound, failed, notReviewed, urgentAdded, restarts,
    arrival, focus, image, offWafer, noMode, imageFault, accepted, high, low, drift,
    measured.trans (by simp [zonesMeasured]), ⟨_, greatest, bound, reached⟩,
    range, mark, identity, calRun, calSuppressed, calUnmeasured, absent, extremes, list,
    fun i hi => classList_fields n.histogram i (inside i hi)⟩

end Sys2Proof.Machine
end

section
/-! PROOFS. Wafer movement: the slot ranges of a lot (R27), the checks of a handler command and its pass (R40 to R46), completions
(R48, R49), and RELOCATE (R51 to R53). -/

namespace Sys2Proof.Machine

/-! ## Slot ranges (R27) -/

theorem effectiveEnd_mono (raw : Nat → Nat) {m n : Nat} (h : m ≤ n) : effectiveEnd raw m ≤ effectiveEnd raw n :=
  monotone_nat_of_le_succ (fun _ => Nat.le_max_right _ _) h

theorem effectiveEnd_le (raw : Nat → Nat) : ∀ n, effectiveEnd raw n ≤ 4096
  | 0 => Nat.zero_le _
  | n + 1 => Nat.max_le.2 ⟨Nat.min_le_right _ _, effectiveEnd_le raw n⟩

/-- A range that holds an index ends before every later one starts. -/
theorem range_unique {raw : Nat → Nat} {i m n : Nat} (hm : i < effectiveEnd raw (m + 1)) (hn : effectiveEnd raw n ≤ i) : n ≤ m := by
  by_contra later
  exact absurd (hm.trans_le (effectiveEnd_mono raw (by omega : m + 1 ≤ n))) (Nat.not_lt.2 hn)

theorem headerEnds_first (w : Line) (c : Fin 24) :
    headerEnds w c.val = fld (w[1 + c.val / 4]'(by omega)) (16 * (c.val % 4)) 16 := by
  have inside : c.val < 25 := by omega
  simp only [headerEnds, headerEnd, dif_pos inside, dif_pos c.isLt]

/-- Settles O21: by the recurrence, and its monotony for ranges that share an index. -/
theorem slotRangesNeverOverlap : Obligations.SlotRangesNeverOverlap := by
  refine ⟨fun raw => ⟨rfl, fun _ => rfl, fun n => ?_, fun _ _ => effectiveEnd_mono raw, effectiveEnd_le raw,
    fun i m n hm hm' hn hn' => Nat.le_antisymm (range_unique hn' hm) (range_unique hm' hn)⟩, fun w => ⟨headerEnds_first w, rfl⟩⟩
  rw [rangeFaultOf, Bool.or_eq_true, decide_eq_true_iff, decide_eq_true_iff]
  rfl

/-! ## The checks of a handler command (R41) -/

/-- A row of the table of R41: its check fails, or the rest of the rows is asked. -/
theorem firstFailure_row {ok : Bool} {reason : RewriteReason} {rest : List Check} {fails : Prop} [Decidable fails]
    {next : Option RewriteReason} (row : ok = true ↔ ¬ fails) (tail : ¬ fails → firstFailure rest = next) :
    firstFailure ((ok, reason) :: rest) = if fails then some reason else next := by
  by_cases failing : fails
  · rw [if_pos failing, firstFailure, if_neg fun h => row.1 h failing]
  · rw [if_neg failing, firstFailure, if_pos (row.2 failing), tail failing]

theorem isHalted_iff (c : Channel) : isHalted c = true ↔ c.code = 2 := by
  cases c <;> simp [isHalted, haltedFlag, Channel.code]

theorem siteEntry_isNone_iff (r : RevisitScheduler) : (siteEntry r).isNone = true ↔ ¬ ∃ e ∈ r.table, isSite e.2.state = true := by
  rw [Option.isNone_iff_eq_none, siteEntry, List.find?_eq_none]
  simp

/-- The three rows every command shares. -/
theorem firstFailure_channelChecks {t : WaferTracker} {rest : List Check} {next : Option RewriteReason}
    (tail : firstFailure rest = next) :
    firstFailure (channelChecks t ++ rest) =
      if ¬ (t.lot = .opened ∨ t.lot = .closing) then some .noLot
      else if t.channel.code = 2 then some .halted
      else if t.channel ≠ .idle then some .busy
      else next :=
  firstFailure_row (by rw [not_not]; simp) fun _ =>
    firstFailure_row (by rw [← isHalted_iff]; simp) fun _ => firstFailure_row (by simp) fun _ => tail

theorem slotOfNumber_eq_some {n : Nat} {c : CarrierSlot} (h : slotOfNumber n = some c) : n = c.val + 1 := by
  unfold slotOfNumber at h
  split at h
  next inside => obtain rfl := Option.some.inj h; exact (Nat.sub_add_cancel inside.1).symm
  next => cases h

theorem usable_iff (r : SlotRecord) : usable r = true ↔ ¬ (r.condition = .double ∨ r.condition = .crossed) := by
  simp [usable]

theorem firstFailure_pickCarrier {n : Nat} {c : CarrierSlot} (number : slotOfNumber n = some c) (s : State) :
    tableReason (some .pick) (some .carrier) n s = firstFailure (pickCarrierChecks c s.wt) := by
  have inside : 1 ≤ n ∧ n ≤ 25 := by rw [slotOfNumber_eq_some number]; omega
  rw [pickCarrierChecks, firstFailure_channelChecks (firstFailure_row (fails := s.wt.lot = .closing) (by simp) fun _ =>
    firstFailure_row (fails := s.wt.robot ≠ none) (by simp) fun _ => firstFailure_row (usable_iff _) fun _ =>
    firstFailure_row (fails := (slotOf s.wt c).location = .returned) (by simp) fun _ =>
    firstFailure_row (fails := (slotOf s.wt c).location ≠ .inCarrier) (by simp) fun _ => rfl)]
  simp only [tableReason, inside, number, reduceCtorEq, and_self, not_true_eq_false, and_false, false_and, true_and, if_false, if_true]
  rfl

theorem firstFailure_pickAligner (n : Nat) (s : State) :
    tableReason (some .pick) (some .aligner) n s = firstFailure (pickAlignerChecks s.wt) := by
  rw [pickAlignerChecks, firstFailure_channelChecks (firstFailure_row (fails := s.wt.robot ≠ none) (by simp) fun _ =>
    firstFailure_row (fails := s.wt.aligner = none) (by simp [Option.isSome_iff_ne_none]) fun _ => rfl)]
  simp only [tableReason, reduceCtorEq, and_self, and_false, false_and, true_and, if_false]
  rfl

theorem firstFailure_pickStage (n : Nat) (s : State) :
    tableReason (some .pick) (some .stage) n s = firstFailure (pickStageChecks s.wt s.rs) := by
  rw [pickStageChecks, firstFailure_channelChecks (firstFailure_row (fails := s.wt.robot ≠ none) (by simp) fun _ =>
    firstFailure_row (fails := s.wt.chamber = none) (by simp [Option.isSome_iff_ne_none]) fun _ =>
    firstFailure_row (siteEntry_isNone_iff s.rs) fun _ => rfl)]
  simp only [tableReason, reduceCtorEq, and_self, and_false, false_and, true_and, if_false]
  rfl

theorem firstFailure_placeAligner (n : Nat) (s : State) :
    tableReason (some .place) (some .aligner) n s = firstFailure (placeAlignerChecks s.wt) := by
  rw [placeAlignerChecks, firstFailure_channelChecks (firstFailure_row (fails := s.wt.robot = none)
    (by simp [Option.isSome_iff_ne_none]) fun _ => firstFailure_row (fails := s.wt.aligner ≠ none) (by simp) fun _ => rfl)]
  simp only [tableReason, reduceCtorEq, and_self, and_false, false_and, true_and, if_false]
  rfl

theorem idPasses_iff (t : WaferTracker) (c : CarrierSlot) :
    idPasses t (slotOf t c) = true ↔ ¬ (t.idCheck = true ∧ (slotOf t c).idState ≠ .idOk ∧ (slotOf t c).idState ≠ .idOverridden) := by
  cases check : t.idCheck <;> simp [idPasses, check]
  tauto

theorem recipesPresent_iff (p : PathInterface) : recipesPresent p = true
    ↔ ¬ (p.focusRecipe = none ∨ p.samplingRecipe = none ∨ p.geometryRecipe = none) := by
  simp [recipesPresent, Option.isSome_iff_ne_none, and_assoc]

theorem firstFailure_placeStage (n : Nat) (s : State) :
    tableReason (some .place) (some .stage) n s = firstFailure (placeStageChecks s.pi s.wt) := by
  cases robot : s.wt.robot with
  | none =>
    rw [placeStageChecks, firstFailure_channelChecks (firstFailure_row (fails := True) (next := none) (by simp [robot]) fun h => absurd trivial h)]
    simp only [tableReason, robot, reduceCtorEq, and_self, and_false, false_and, true_and, if_false, if_true]
  | some c =>
    rw [placeStageChecks, firstFailure_channelChecks (firstFailure_row (fails := False) (by simp [robot]) fun _ =>
      firstFailure_row (fails := s.wt.chamber ≠ none) (by simp) fun _ =>
      firstFailure_row (fails := some (slotOf s.wt c).aligned ≠ some true) (by simp [robot, wafer?]) fun _ =>
      firstFailure_row (fails := s.wt.idCheck = true ∧ some (slotOf s.wt c).idState ≠ some .idOk ∧ some (slotOf s.wt c).idState ≠ some .idOverridden)
        (by simpa [robot, wafer?] using idPasses_iff s.wt c) fun _ => firstFailure_row (recipesPresent_iff s.pi) fun _ => rfl)]
    simp only [tableReason, robot, Option.map_some, reduceCtorEq, and_self, and_false, false_and, true_and, if_false]
    rfl

theorem firstFailure_placeCarrier {n : Nat} {c : CarrierSlot} (number : slotOfNumber n = some c) (s : State) :
    tableReason (some .place) (some .carrier) n s = firstFailure (placeCarrierChecks c s.wt) := by
  obtain rfl := slotOfNumber_eq_some number
  have inside : 1 ≤ c.val + 1 ∧ c.val + 1 ≤ 25 := by omega
  have holds : s.wt.robot.map slotNumber = some (c.val + 1) ↔ s.wt.robot = some c := by
    cases s.wt.robot <;> simp [slotNumber, Fin.ext_iff]
  rw [placeCarrierChecks, firstFailure_channelChecks (firstFailure_row (fails := s.wt.robot = none)
    (by simp [Option.isSome_iff_ne_none]) fun _ =>
    firstFailure_row (fails := s.wt.robot.map slotNumber ≠ some (c.val + 1)) (by simp [holds]) fun _ => rfl)]
  simp only [tableReason, inside, reduceCtorEq, and_self, not_true_eq_false, and_false, false_and, true_and, if_false]
  rfl

/-! ## The decision on a handler command -/

theorem settle_error {checks : List Check} {reason : RewriteReason} (h : firstFailure checks = some reason)
    (wafer : Option CarrierSlot) (pass : CarrierSlot → State) : settle checks wafer pass = .error reason := by
  simp only [settle, h]

theorem settle_ok {checks : List Check} {wafer : Option CarrierSlot} {c : CarrierSlot} (h : firstFailure checks = none)
    (held : wafer = some c) (pass : CarrierSlot → State) : settle checks wafer pass = .ok (pass c) := by
  simp only [settle, h, held]

/-- A command whose checks hold has its wafer: one of them asks for it. -/
theorem settle_ok_of_check {checks : List Check} {wafer : Option CarrierSlot} {reason : RewriteReason}
    (h : firstFailure checks = none) (asked : (wafer.isSome, reason) ∈ checks) (pass : CarrierSlot → State) :
    ∃ c, settle checks wafer pass = .ok (pass c) := by
  obtain ⟨c, held⟩ := Option.isSome_iff_exists.1 ((firstFailure_eq_none_iff _).1 h _ asked)
  exact ⟨c, settle_ok h held pass⟩

theorem slotOfNumber_eq_none {n : Nat} (h : slotOfNumber n = none) : ¬ (1 ≤ n ∧ n ≤ 25) := by
  unfold slotOfNumber at h
  split at h
  · cases h
  · assumption

theorem judgePickCarrier_of_number {w : Line} {c : CarrierSlot} (h : slotOfNumber (commandCarrier w).toNat = some c) (tag : BitVec 8)
    (s : State) : judgePickCarrier w tag s = settle (pickCarrierChecks c s.wt) (some c) fun c =>
      { s with wt := passCommand { tag := tag, verb := .pick, place := .carrier, carrier := commandCarrier w, wafer := c } s.wt } := by
  simp only [judgePickCarrier, h]

theorem judgePlaceCarrier_of_number {w : Line} {c : CarrierSlot} (h : slotOfNumber (commandCarrier w).toNat = some c) (tag : BitVec 8)
    (s : State) : judgePlaceCarrier w tag s = settle (placeCarrierChecks c s.wt) s.wt.robot fun c =>
      { s with wt := passCommand { tag := tag, verb := .place, place := .carrier, carrier := commandCarrier w, wafer := c } s.wt } := by
  simp only [judgePlaceCarrier, h]

/-- The decision on a command of defined codes is the table's row. -/
theorem judgeByCode_error {v : Verb} {p : Place} {w : Line} {s : State} {reason : RewriteReason}
    (h : tableReason (some v) (some p) (commandCarrier w).toNat s = some reason) (tag : BitVec 8) :
    judgeByCode v p w tag s = .error reason := by
  cases v <;> cases p <;> simp only [judgeByCode]
  case pick.carrier =>
    unfold judgePickCarrier
    cases number : slotOfNumber (commandCarrier w).toNat with
    | none => simpa [tableReason, slotOfNumber_eq_none number] using h
    | some c => exact settle_error ((firstFailure_pickCarrier number s).symm.trans h) ..
  case pick.aligner => exact settle_error ((firstFailure_pickAligner _ s).symm.trans h) ..
  case pick.stage => exact settle_error ((firstFailure_pickStage _ s).symm.trans h) ..
  case place.aligner => exact settle_error ((firstFailure_placeAligner _ s).symm.trans h) ..
  case place.stage => exact settle_error ((firstFailure_placeStage _ s).symm.trans h) ..
  case place.carrier =>
    unfold judgePlaceCarrier
    cases number : slotOfNumber (commandCarrier w).toNat with
    | none => simpa [tableReason, slotOfNumber_eq_none number] using h
    | some c => exact settle_error ((firstFailure_placeCarrier number s).symm.trans h) ..

/-- A command of defined codes that fails no row is passed to the channel; only the session may hear of it. -/
theorem judgeByCode_ok {v : Verb} {p : Place} {w : Line} {s : State}
    (h : tableReason (some v) (some p) (commandCarrier w).toNat s = none) (tag : BitVec 8) :
    ∃ k r, judgeByCode v p w tag s = .ok { s with wt := { s.wt with channel := .outstanding k }, rs := r } := by
  cases v <;> cases p <;> simp only [judgeByCode]
  case pick.carrier =>
    unfold judgePickCarrier
    cases number : slotOfNumber (commandCarrier w).toNat with
    | none => simp [tableReason, slotOfNumber_eq_none number] at h
    | some c => exact ⟨_, _, settle_ok ((firstFailure_pickCarrier number s).symm.trans h) rfl _⟩
  case pick.aligner =>
    obtain ⟨c, run⟩ := settle_ok_of_check ((firstFailure_pickAligner _ s).symm.trans h)
      (List.mem_append_right _ (.tail _ (.head _))) _
    exact ⟨_, _, run⟩
  case pick.stage =>
    obtain ⟨c, run⟩ := settle_ok_of_check ((firstFailure_pickStage _ s).symm.trans h)
      (List.mem_append_right _ (.tail _ (.head _))) _
    exact ⟨_, _, run⟩
  case place.aligner =>
    obtain ⟨c, run⟩ := settle_ok_of_check ((firstFailure_placeAligner _ s).symm.trans h) (List.mem_append_right _ (.head _)) _
    exact ⟨_, _, run⟩
  case place.stage =>
    obtain ⟨c, run⟩ := settle_ok_of_check ((firstFailure_placeStage _ s).symm.trans h) (List.mem_append_right _ (.head _)) _
    exact ⟨_, _, run⟩
  case place.carrier =>
    unfold judgePlaceCarrier
    cases number : slotOfNumber (commandCarrier w).toNat with
    | none => simp [tableReason, slotOfNumber_eq_none number] at h
    | some c =>
      obtain ⟨d, run⟩ := settle_ok_of_check ((firstFailure_placeCarrier number s).symm.trans h) (List.mem_append_right _ (.head _)) _
      exact ⟨_, _, run⟩

theorem tableReason_undefined {v : Option Verb} {p : Option Place} (h : v = none ∨ p = none) (n : Nat) (s : State) :
    tableReason v p n s = some .malformed := by
  obtain rfl | rfl := h
  · rfl
  · cases v <;> rfl

theorem judgeCommand_undefined {w : Line} (h : commandVerb w = none ∨ commandPlace w = none) (tag : BitVec 8) (s : State) :
    judgeCommand w tag s = .error .malformed := by
  unfold judgeCommand
  obtain h | h := h
  · rw [h]
  · rw [h]
    cases commandVerb w <;> rfl

theorem judgeCommand_defined {w : Line} {v : Verb} {p : Place} (verb : commandVerb w = some v) (place : commandPlace w = some p)
    (tag : BitVec 8) (s : State) : judgeCommand w tag s = judgeByCode v p w tag s := by
  unfold judgeCommand
  rw [verb, place]

/-- Settles O28: each command's list of checks is the table, row by row. -/
theorem firstFailingCheckRewrites : Obligations.FirstFailingCheckRewrites := by
  intro c b s target offers
  rw [exec_mailbox target offers.1]
  by_cases undefined : commandVerb (recordWords .mailbox b s) = none ∨ commandPlace (recordWords .mailbox b s) = none
  · have malformed := tableReason_undefined undefined (commandCarrier (recordWords .mailbox b s)).toNat s
    refine ⟨fun x h => ?_, fun h => absurd (malformed.symm.trans h) (by simp)⟩
    obtain rfl := Option.some.inj (malformed.symm.trans h)
    rw [mailboxStep_rewrite offers (judgeCommand_undefined undefined ..)]
  · rw [not_or] at undefined
    obtain ⟨v, verb⟩ := Option.ne_none_iff_exists'.1 undefined.1
    obtain ⟨p, place⟩ := Option.ne_none_iff_exists'.1 undefined.2
    have judged := judgeCommand_defined verb place (recordTag .mailbox b s) (offeredState .mailbox b s)
    simp only [verb, place]
    refine ⟨fun x h => ?_, fun h => ?_⟩
    · rw [mailboxStep_rewrite offers (judged.trans (judgeByCode_error (s := offeredState .mailbox b s) h _))]
    · obtain ⟨k, r, run⟩ := judgeByCode_ok (s := offeredState .mailbox b s) h (recordTag .mailbox b s)
      rw [mailboxStep_pass offers (judged.trans run)]
      exact ⟨_, k, rfl, rfl, rfl, rfl⟩

/-- A command that passes, under its row: its judge's state, with the post recorded TAKEN (R10, R46). -/
theorem exec_passed {c : Instr} {v : Verb} {p : Place} {b : WriteBurst} {s t : State} (target : writeTarget c = some b)
    (h : Commands v p b s)
    (run : judgeByCode v p (recordWords .mailbox b s) (recordTag .mailbox b s) (offeredState .mailbox b s) = .ok t) :
    exec c s = .next
      { t with pi := { t.pi with lastPost := { slot := 192, tag := recordTag .mailbox b s, outcome := some .taken } } } := by
  obtain ⟨offers, verb, place⟩ := h
  rw [exec_mailbox target offers.1, mailboxStep_pass offers ((judgeCommand_defined verb place _ _).trans run)]

theorem channelChecks_pass {t : WaferTracker} {rest : List Check} (idle : t.channel = .idle)
    (lot : t.lot = .opened ∨ t.lot = .closing) (h : ∀ x ∈ rest, x.1 = true) : firstFailure (channelChecks t ++ rest) = none := by
  rw [firstFailure_channelChecks ((firstFailure_eq_none_iff rest).2 h), if_neg (not_not.2 lot), if_neg (by simp [idle, Channel.code]),
    if_neg (not_not.2 idle)]

theorem commandCarrier_toNat (w : Line) : (commandCarrier w).toNat = fld w[6] 16 8 :=
  Nat.mod_eq_of_lt (fld_lt w[6] 16 8)

/-- Settles O27: the checks of each command hold, so it passes for its wafer. -/
theorem handlerCommandsPass : Obligations.HandlerCommandsPass := by
  intro b s c idle
  refine ⟨fun h lot carrier robot double crossed here => ?_, fun h lot robot aligner => ?_, fun h lot robot chamber free => ?_,
    fun h lot robot aligner => ?_, fun h lot robot chamber aligned identity focus sampling geometry => ?_,
    fun h lot robot carrier => ?_⟩
  · have number : slotOfNumber (commandCarrier (recordWords .mailbox b s)).toNat = some c := by
      rw [commandCarrier_toNat, carrier, slotOfNumber_val_add_one]
    have checks : firstFailure (pickCarrierChecks c s.wt) = none :=
      channelChecks_pass idle (.inl lot) (by simp [lot, robot, usable, double, crossed, here])
    exact exec_passed (c := .pickCarrier b) rfl h
      ((judgePickCarrier_of_number number _ (offeredState .mailbox b s)).trans (settle_ok checks rfl _))
  · have checks : firstFailure (pickAlignerChecks s.wt) = none := channelChecks_pass idle lot (by simp [robot, aligner])
    exact exec_passed (c := .pickAligner b) rfl h (settle_ok checks aligner _)
  · have checks : firstFailure (pickStageChecks s.wt s.rs) = none :=
      channelChecks_pass idle lot (by simp [robot, chamber, siteEntry_eq_none free])
    exact exec_passed (c := .pickStage b) rfl h (settle_ok checks chamber _)
  · have checks : firstFailure (placeAlignerChecks s.wt) = none := channelChecks_pass idle lot (by simp [robot, aligner])
    exact exec_passed (c := .placeAligner b) rfl h (settle_ok checks robot _)
  · have confirmed : idPasses s.wt (slotOf s.wt c) = true := by
      obtain off | known | overridden := identity
      · simp [idPasses, off]
      · simp [idPasses, known]
      · simp [idPasses, overridden]
    have stored : recipesPresent s.pi = true := (recipesPresent_iff _).2 (by simp [focus, sampling, geometry])
    have checks : firstFailure (placeStageChecks s.pi s.wt) = none :=
      channelChecks_pass idle lot (by simp [robot, chamber, wafer?, aligned, confirmed, stored])
    exact exec_passed (c := .placeStage b) rfl h (settle_ok checks robot _)
  · have number : slotOfNumber (commandCarrier (recordWords .mailbox b s)).toNat = some c := by
      rw [commandCarrier_toNat, carrier, slotOfNumber_val_add_one]
    have checks : firstFailure (placeCarrierChecks c s.wt) = none := channelChecks_pass idle lot (by simp [robot])
    exact exec_passed (c := .placeCarrier b) rfl h
      ((judgePlaceCarrier_of_number number _ (offeredState .mailbox b s)).trans (settle_ok checks robot _))

/-! ## Records whose owner reaches other blocks -/

theorem exec_accepted {c : Instr} {slot : StagedSlot} {k : RecordKind} {b : WriteBurst} {s t : State} {own : Owner}
    (h : Offers slot k b s) (target : writeTarget c = some b) (owner : ownersOf slot k = some own) (staged : slot ≠ .mailbox)
    (decided : own (recordWords slot b s) (offeredState slot b s) = (.taken, t)) :
    exec c s = .next (recordPost (stagedNumber slot) (recordTag slot b s) .taken t) := by
  rw [exec_post target staged h.1, stagedStep_offers h owner, decided]

/-- Recording a post that is taken commutes with what the session and the lot do. -/
theorem chamberEntry_recordPost (n : Nat) (tag : BitVec 8) (c : CarrierSlot) (s : State) :
    chamberEntry c (recordPost n tag .taken s) = recordPost n tag .taken (chamberEntry c s) := by
  unfold chamberEntry
  rw [show latchRecipe (recordPost n tag .taken s).pi = latchRecipe s.pi from rfl]
  cases latchRecipe s.pi <;> rfl

theorem exitDone_recordPost (n : Nat) (tag : BitVec 8) (s : State) :
    exitDone (recordPost n tag .taken s) = recordPost n tag .taken (exitDone s) := by
  rw [exitDone_eq, exitDone_eq]
  rfl

theorem restTest_recordPost (n : Nat) (tag : BitVec 8) (s : State) :
    restTest (recordPost n tag .taken s) = recordPost n tag .taken (restTest s) := by
  unfold restTest
  rw [show (recordPost n tag .taken s).wt = s.wt from rfl]
  split_ifs <;> rfl

theorem completionNotice_recordPost (n : Nat) (tag : BitVec 8) (k : HeldCommand) (s : State) :
    completionNotice k (recordPost n tag .taken s) = recordPost n tag .taken (completionNotice k s) := by
  unfold completionNotice
  split
  · exact chamberEntry_recordPost n tag k.wafer s
  · exact exitDone_recordPost n tag s
  · rfl

theorem relocateNotice_recordPost (n : Nat) (tag : BitVec 8) (c : CarrierSlot) (v : Verb) (p : Place) (l : Location) (s : State) :
    relocateNotice c v p l (recordPost n tag .taken s) = recordPost n tag .taken (relocateNotice c v p l s) := by
  unfold relocateNotice
  rw [show (recordPost n tag .taken s).rs = s.rs from rfl]
  split
  · split_ifs
    · exact chamberEntry_recordPost n tag c s
    · rfl
  · split_ifs
    · rfl
    · exact exitDone_recordPost n tag s
    · rfl
  · rfl

/-! ## The test for rest (R34, R35) -/

theorem restTest_eq (s : State) : restTest s = if s.wt.lot = .closing ∧ AtRest s.wt then closeLot s else s := by
  unfold restTest
  exact if_congr (and_congr_right fun _ => atRest_iff _) rfl rfl

theorem restTest_of_robot {s : State} (held : s.wt.robot ≠ none) : restTest s = s :=
  restTest_of_not_atRest fun ⟨_, robot, _⟩ => held robot

theorem restTest_of_chamber {s : State} (held : s.wt.chamber ≠ none) : restTest s = s :=
  restTest_of_not_atRest fun ⟨_, _, _, chamber, _⟩ => held chamber

/-! ## Completions (R48, R49) -/

theorem decideCompletion_stale {w : Line} {s : State}
    (h : ∀ k, s.wt.channel = .outstanding k → fld w[0] 0 8 ≠ k.tag.toNat) : decideCompletion w s = (.stale, s) := by
  unfold decideCompletion
  split
  next k held =>
    have other : completionTag w ≠ k.tag := fun same => h k held (by
      rw [← same, completionTag, BitVec.toNat_ofNat, Nat.mod_eq_of_lt (fld_lt w[0] 0 8)])
    exact if_pos other
  all_goals rfl

theorem completionDone_undefined {w : Line} (done : fld w[0] 8 8 ≠ 1) (fault : fld w[0] 8 8 ≠ 2) : completionDone w = none := by
  unfold completionDone doneOfCode
  split <;> simp_all

theorem decideCompletion_outOfRange {w : Line} {s : State} {k : HeldCommand} (held : s.wt.channel = .outstanding k)
    (tag : fld w[0] 0 8 = k.tag.toNat) (done : fld w[0] 8 8 ≠ 1) (fault : fld w[0] 8 8 ≠ 2) :
    decideCompletion w s = (.outOfRange, s) := by
  simp only [decideCompletion, held, completionTag_eq tag, ne_eq, not_true_eq_false, if_false, completionDone_undefined done fault]
  rfl

theorem decideCompletion_done {w : Line} {s : State} {k : HeldCommand} (held : s.wt.channel = .outstanding k)
    (tag : fld w[0] 0 8 = k.tag.toNat) (done : fld w[0] 8 8 = 1) : decideCompletion w s = (.taken, completeDone k s) := by
  simp only [decideCompletion, held, completionTag_eq tag, ne_eq, not_true_eq_false, if_false, completionDone, done]
  rfl

/-- A DONE completion on the state of a post taken: the move, its notice, the test for rest (R49). -/
theorem exec_completion_done {b : WriteBurst} {s : State} {k : HeldCommand} (h : Offers .completion .completion b s)
    (held : s.wt.channel = .outstanding k) (tag : fld (recordWords .completion b s)[0] 0 8 = k.tag.toNat)
    (done : fld (recordWords .completion b s)[0] 8 8 = 1) :
    exec (.completion b) s = .next (restTest (completionNotice k
      { takenPost .completion b s with wt := { applyMove k s.wt with channel := .idle } })) := by
  rw [exec_accepted (c := .completion b) h rfl rfl (by decide) (decideCompletion_done (s := offeredState .completion b s) held tag done),
    completeDone, ← restTest_recordPost, ← completionNotice_recordPost]
  rfl

/-- Settles O29: the refusals by the channel's tag and the outcome; the moves by the command held, then the test for rest. -/
theorem completionMovesWafer : Obligations.CompletionMovesWafer := by
  intro b s h
  refine ⟨fun free => ?_, fun k held => ⟨fun tag => ?_, fun tag done fault => ?_, fun tag done moved move => ?_⟩⟩
  · exact exec_refused h rfl rfl (by decide) (by decide)
      (decideCompletion_stale (s := offeredState .completion b s) fun k held => absurd held (free k))
  · refine exec_refused h rfl rfl (by decide) (by decide) (decideCompletion_stale (s := offeredState .completion b s) fun j other => ?_)
    obtain rfl : k = j := by simpa using held.symm.trans other
    exact tag
  · exact exec_refused h rfl rfl (by decide) (by decide)
      (decideCompletion_outOfRange (s := offeredState .completion b s) held tag done fault)
  · have run := exec_completion_done h held tag done
    have made : ({ applyMove k s.wt with channel := .idle } : WaferTracker) = moved ∧ moved.lot = s.wt.lot ∧ ∀ t, completionNotice k t = t := by
      obtain ⟨v, p, rfl⟩ | ⟨v, p, rfl⟩ | ⟨v, p, rfl⟩ | ⟨v, p, rfl⟩ := move
      all_goals simp only [applyMove, completionNotice, v, p]; exact ⟨rfl, rfl, fun _ => trivial⟩
    obtain ⟨made, lot, quiet⟩ := made
    rw [run, made, quiet, restTest_eq]
    exact ⟨fun rest => by rw [if_pos (lot ▸ rest)], fun rest => by rw [if_neg (lot ▸ rest)]⟩

theorem latchRecipe_eq {p : PathInterface} {f : FocusRecipe} {m : SamplingRecipe} {g : GeometryRecipe}
    (focus : p.focusRecipe = some f) (sampling : p.samplingRecipe = some m) (geometry : p.geometryRecipe = some g) :
    latchRecipe p = some { focus := f, sampling := m, geometry := g } := by
  simp only [latchRecipe, focus, sampling, geometry]

/-- Settles O30: the chamber holds the wafer, so the lot is not at rest, and the session opens under the latched recipes. -/
theorem placeStageOpensSession : Obligations.PlaceStageOpensSession := by
  intro b s k f m g h held verb place tag done focus sampling geometry
  have latched := latchRecipe_eq focus sampling geometry
  have entered : ∀ t : WaferTracker, chamberEntry k.wafer { takenPost .completion b s with wt := t } =
      { takenPost .completion b s with
        wt := t
        rs := openSession k.wafer { focus := f, sampling := m, geometry := g } (rangeStart t k.wafer) (rangeEnd t k.wafer) s.rs
        fe := sessionStart f s.fe } := fun t => by
    unfold chamberEntry
    rw [show latchRecipe (takenPost .completion b s).pi = _ from latched]
    rfl
  rw [exec_completion_done h held tag done]
  simp only [completionNotice, applyMove, verb, place, entered]
  rw [restTest_of_chamber (by simp)]
  rfl

/-- Settles O31: the robot holds the wafer, so the lot is not at rest, and the session ends as R68 has it. -/
theorem pickStageEndsSession : Obligations.PickStageEndsSession := by
  intro b s k d h held verb place tag done chamber
  rw [exec_completion_done h held tag done]
  simp only [completionNotice, applyMove, verb, place, exitDone_eq]
  rw [restTest_of_robot (by simp [countReviewed])]
  simp only [dropQueued_eq, chamber, takenPost]
  rfl

/-! ## RELOCATE (R51 to R53) -/

theorem locationOfCode_eq_none {n : Nat} (h : 6 < n) : locationOfCode n = none := by
  obtain ⟨m, rfl⟩ := Nat.exists_eq_add_of_le' h
  rfl

theorem locationOfCode_code (l : Location) : locationOfCode l.code = some l := by cases l <;> rfl

theorem relocationOk_iff (c : CarrierSlot) (p : Place) (l : Location) (t : WaferTracker) : relocationOk c p l t = true ↔
    ¬ (l = .absent ∨ l = .unknown ∨ (l = .inCarrier ∧ (slotOf t c).visited = true)
      ∨ (l = .returned ∧ (slotOf t c).visited = false) ∨ (l = .inChamber ∧ p ≠ .stage) ∨ (l = .onRobot ∧ t.robot ≠ none)
      ∨ (l = .onAligner ∧ t.aligner ≠ none) ∨ (l = .inChamber ∧ t.chamber ≠ none)) := by
  cases l <;> simp [relocationOk, placeTaken]

/-- The Wafer Tracker after RELOCATE as one update (R52). -/
theorem relocateWafer_eq (c : CarrierSlot) (l : Location) (t : WaferTracker) : relocateWafer c l t =
    { withSlot c { slotOf t c with
        location := l, aligned := false, visited := (slotOf t c).visited || l == .inChamber } t with
      robot := if l = .onRobot then some c else t.robot
      aligner := if l = .onAligner then some c else t.aligner
      chamber := if l = .inChamber then some c else t.chamber
      channel := .idle } := by
  cases l <;> rfl

theorem decideRelocate_wrongState {w : Line} {s : State}
    (h : ∀ c v p, s.wt.channel = .halted c v p → fld w[0] 0 8 ≠ c.val + 1) : decideRelocate w s = (.wrongState, s) := by
  unfold decideRelocate
  split
  next c v p held => exact if_pos (h c v p held)
  all_goals rfl

section
variable {w : Line} {s : State} {c : CarrierSlot} {v : Verb} {p : Place} (held : s.wt.channel = .halted c v p)
  (named : fld w[0] 0 8 = c.val + 1)
include held named

theorem decideRelocate_undefined (code : 6 < fld w[0] 8 8) : decideRelocate w s = (.outOfRange, s) := by
  simp only [decideRelocate, held, relocateSlot, named, slotNumber, ne_eq, not_true_eq_false, if_false, relocateLocation,
    locationOfCode_eq_none code]
  rfl

theorem decideRelocate_outOfRange {l : Location} (code : fld w[0] 8 8 = l.code) (bad : ¬ relocationOk c p l s.wt = true) :
    decideRelocate w s = (.outOfRange, s) := by
  simp only [decideRelocate, held, relocateSlot, named, slotNumber, ne_eq, not_true_eq_false, if_false, relocateLocation, code,
    locationOfCode_code, if_neg bad]
  rfl

theorem decideRelocate_taken {l : Location} (code : fld w[0] 8 8 = l.code) (good : relocationOk c p l s.wt = true) :
    decideRelocate w s = (.taken, restTest (relocateNotice c v p l { s with wt := relocateWafer c l s.wt })) := by
  simp only [decideRelocate, held, relocateSlot, named, slotNumber, ne_eq, not_true_eq_false, if_false, relocateLocation, code,
    locationOfCode_code, if_pos good]
  rfl

end

/-! ### The notice of a relocation (R53; log 13) -/

theorem relocateNotice_enters {t : State} (free : t.rs.session.state = .none) (c : CarrierSlot) :
    relocateNotice c .place .stage .inChamber t = chamberEntry c t := if_pos ⟨free, rfl⟩

theorem relocateNotice_cancels {t : State} {q : SessionState} (exiting : t.rs.session.state = .exiting)
    (remembered : t.rs.session.remembered = some q) (c : CarrierSlot) :
    relocateNotice c .pick .stage .inChamber t =
      { t with rs := { t.rs with session := { t.rs.session with state := q, remembered := none } } } := by
  simp only [relocateNotice, if_pos exiting, if_true, exitCancelled, remembered]

theorem relocateNotice_exits {t : State} {l : Location} (exiting : t.rs.session.state = .exiting) (out : l ≠ .inChamber)
    (c : CarrierSlot) : relocateNotice c .pick .stage l t = exitDone t := (if_pos exiting).trans (if_neg out)

theorem relocateNotice_quiet {t : State} {v : Verb} {p : Place} {l : Location}
    (h : p ≠ .stage ∨ (v = .place ∧ (t.rs.session.state ≠ .none ∨ l ≠ .inChamber)) ∨ (v = .pick ∧ t.rs.session.state ≠ .exiting))
    (c : CarrierSlot) : relocateNotice c v p l t = t := by
  unfold relocateNotice
  split
  · exact if_neg fun ⟨free, here⟩ => by simp_all
  · exact if_neg fun exiting => by simp_all
  · rfl

theorem exitDone_rest (t : State) : (exitDone t).wt.lot = t.wt.lot ∧ (AtRest (exitDone t).wt ↔ AtRest t.wt) := by
  rw [exitDone_eq]
  exact ⟨rfl, Iff.rfl⟩

/-- Settles O33: the refusals in their order; a relocation taken, then its notice by the command and the session's state. -/
theorem relocateRepairsTheFault : Obligations.RelocateRepairsTheFault := by
  intro b s h
  refine ⟨fun other => ?_, fun c v p held named => ⟨fun code => ?_, fun l code => ⟨fun bad => ?_, fun good => ?_⟩⟩⟩
  · exact exec_refused h rfl rfl (by decide) (by decide) (decideRelocate_wrongState (s := offeredState .control b s) other)
  · exact exec_refused h rfl rfl (by decide) (by decide) (decideRelocate_undefined (s := offeredState .control b s) held named code)
  · exact exec_refused h rfl rfl (by decide) (by decide)
      (decideRelocate_outOfRange (s := offeredState .control b s) held named code fun ok => (relocationOk_iff ..).1 ok bad)
  · have run : exec (.relocate b) s = .next (restTest (relocateNotice c v p l
        { takenPost .control b s with wt := relocateWafer c l s.wt })) := by
      rw [exec_accepted (c := .relocate b) h rfl rfl (by decide)
        (decideRelocate_taken (s := offeredState .control b s) held named code ((relocationOk_iff ..).2 good)),
        ← restTest_recordPost, ← relocateNotice_recordPost]
      rfl
    rw [run, relocateWafer_eq]
    refine ⟨fun stage place none chamber => ?_, fun stage pick exiting chamber q remembered => ?_,
      fun stage pick exiting out => ?_, fun quiet => ?_⟩
    · subst stage place chamber
      rw [relocateNotice_enters, restTest_of_chamber]
      · rw [(chamberEntry_frame c _).2.1]
        simp
      · exact none
    · subst stage pick chamber
      rw [relocateNotice_cancels (q := q), restTest_of_chamber (by simp)]
      · rfl
      · exact exiting
      · exact remembered
    · subst stage pick
      rw [relocateNotice_exits _ out, restTest_eq, (exitDone_rest _).1]
      · exact congrArg Host.Outcome.next (if_congr (and_congr_right fun _ => (exitDone_rest _).2) rfl rfl)
      · exact exiting
    · rw [relocateNotice_quiet, restTest_eq]
      · rfl
      · exact quiet

end Sys2Proof.Machine
end

section
/-! PROOFS. The wafer session's commands (R64, R131, R163), selection (R76), the zone of a target (R97), and the target slot: dispatch
and the other reads (R94 to R102, R106). -/

namespace Sys2Proof.Machine

/-! ## ALIGNMENT, ACK_FLAGS and the column capability record -/

theorem decideAlignment_wrongState (w : Line) {s : State} (h : s.rs.session.state = .none ∨ s.rs.session.state = .exiting) :
    decideAlignment w s = (.wrongState, s) := if_pos h

/-- The offsets of an ALIGNMENT lie in their range (R64). -/
def OffsetsInRange (w : Line) : Prop :=
  -2000 ≤ sfld w[0] 0 32 ∧ sfld w[0] 0 32 ≤ 2000 ∧ -2000 ≤ sfld w[0] 32 32 ∧ sfld w[0] 32 32 ≤ 2000

theorem offsetsInRange_iff (w : Line) :
    (within (-2000) 2000 (alignmentX w) && within (-2000) 2000 (alignmentY w)) = true ↔ OffsetsInRange w := by
  rw [Bool.and_eq_true, within_iff, within_iff, and_assoc]
  rfl

theorem decideAlignment_outOfRange {w : Line} {s : State} (fits : ¬ (s.rs.session.state = .none ∨ s.rs.session.state = .exiting))
    (outside : ¬ OffsetsInRange w) : decideAlignment w s = (.outOfRange, s) :=
  (if_neg fits).trans (if_neg (mt (offsetsInRange_iff w).1 outside))

theorem decideAlignment_aligning {w : Line} {s : State} (h : s.rs.session.state = .aligning) (inside : OffsetsInRange w) :
    decideAlignment w s = (.taken, { s with
      rs := { s.rs with session := { s.rs.session with
        offsetX := sfld w[0] 0 32, offsetY := sfld w[0] 32 32, aligned := true, state := .active } } }) := by
  rw [decideAlignment, if_neg (by simp [h]), if_pos ((offsetsInRange_iff w).2 inside), alignSession, if_pos h]
  rfl

/-- In ACTIVE and ENDING the aligned mark stands (log 24). -/
theorem decideAlignment_review {w : Line} {s : State} (h : s.rs.session.state = .active ∨ s.rs.session.state = .ending)
    (inside : OffsetsInRange w) : decideAlignment w s = (.taken, { s with
      rs := { s.rs with session := { s.rs.session with offsetX := sfld w[0] 0 32, offsetY := sfld w[0] 32 32 } } }) := by
  have fits : ¬ (s.rs.session.state = .none ∨ s.rs.session.state = .exiting) := by obtain h | h := h <;> simp [h]
  have past : s.rs.session.state ≠ .aligning := by obtain h | h := h <;> simp [h]
  rw [decideAlignment, if_neg fits, if_pos ((offsetsInRange_iff w).2 inside), alignSession, if_neg past]
  rfl

/-- The set of an ACK_FLAGS holds nothing but REPORT_LOST (R163). -/
theorem ackOthers_eq_zero_iff (w : Line) : ackOthers w = 0 ↔ ∀ i, 0 < i → i < 64 → w[0].getLsbD i = false := by
  have bits : ∀ i, i < 64 → (ackOthers w).getLsbD i = (w[0].getLsbD i && decide (0 < i)) := fun i hi => by
    have one : (1 : Word).getLsbD i = decide (i = 0) := by simp [BitVec.getLsbD_one]
    rw [ackOthers, BitVec.getLsbD_and, BitVec.getLsbD_not, one]
    simp [hi, Nat.pos_iff_ne_zero]
  constructor
  · intro h i pos hi
    have bit := bits i hi
    rw [h] at bit
    simpa [pos] using bit.symm
  · intro h
    refine BitVec.eq_of_getLsbD_eq fun i hi => ?_
    rw [bits i hi]
    obtain rfl | pos := Nat.eq_zero_or_pos i
    · simp
    · simp [h i pos hi]

theorem decideAckFlags_outOfRange {w : Line} (s : State) (h : ackOthers w ≠ 0) : decideAckFlags w s = (.outOfRange, s) := if_neg h

theorem decideAckFlags_taken {w : Line} (s : State) (h : ackOthers w = 0) :
    decideAckFlags w s = (.taken, { s with
      ru := { s.ru with reportLost := if w[0].getLsbD 0 = true then false else s.ru.reportLost } }) := by
  rw [decideAckFlags, if_pos h, bitAt]
  cases w[0].getLsbD 0 <;> simp [take]

/-- Settles O37: each owner's decision by the session's state, the ranges and the set. -/
theorem alignmentFlagsAndCapability : Obligations.AlignmentFlagsAndCapability := by
  refine ⟨fun b s h => ⟨fun closed => ?_, fun none exiting outside => ?_, fun aligning inside => ?_, fun review inside => ?_⟩,
    fun b s h => ⟨fun ⟨i, pos, hi, set⟩ => ?_, fun alone => ?_⟩, fun b s h => ?_⟩
  · exact exec_refused h rfl rfl (by decide) (by decide) (decideAlignment_wrongState (s := offeredState .control b s) _ closed)
  · exact exec_refused h rfl rfl (by decide) (by decide)
      (decideAlignment_outOfRange (s := offeredState .control b s) (not_or.2 ⟨none, exiting⟩) outside)
  · exact exec_taken h rfl rfl (by decide) (decideAlignment_aligning (s := offeredState .control b s) aligning inside)
  · exact exec_taken h rfl rfl (by decide) (decideAlignment_review (s := offeredState .control b s) review inside)
  · have others : ackOthers (recordWords .control b s) ≠ 0 := fun none => by
      rw [(ackOthers_eq_zero_iff _).1 none i pos hi] at set
      cases set
    exact exec_refused h rfl rfl (by decide) (by decide) (decideAckFlags_outOfRange (offeredState .control b s) others)
  · exact exec_taken h rfl rfl (by decide) (decideAckFlags_taken (offeredState .control b s) ((ackOthers_eq_zero_iff _).2 alone))
  · rw [exec_post (c := .columnCapability b) rfl (by decide) h.1, stagedStep_take h (own := decideCapability) rfl rfl]
    rfl

/-! ## Selection -/

/-- The indices of a list that pass selection (R75, R76). -/
def passingOf (m : SamplingRecipe) (defects : Sparse DefectEntry) (l : List Nat) : List Nat :=
  l.filter fun i => ((Sparse.lookup defects i).map fun d => verdict m d.attributes) = some true

/-- The indices that selection's filters reject. -/
def skippedOf (m : SamplingRecipe) (defects : Sparse DefectEntry) (l : List Nat) : List Nat :=
  l.filter fun i => ((Sparse.lookup defects i).map fun d => verdict m d.attributes) = some false

/-- The indices without a defect. -/
def absentOf (defects : Sparse DefectEntry) (l : List Nat) : List Nat := l.filter fun i => Sparse.lookup defects i = none

/-- The Revisit Scheduler after selection over a list of indices. -/
def selectionOf (m : SamplingRecipe) (r : RevisitScheduler) (l : List Nat) : RevisitScheduler :=
  let chosen := (passingOf m r.defects l).take m.cap
  { r with
    table := chosen.mapIdx fun tag i => (tag, newEntry .regular (some i))
    queue := List.range chosen.length
    session := { r.session with
      tallies := { r.session.tallies with
        selected := chosen.length, skipped := (skippedOf m r.defects l).length
        overCap := (passingOf m r.defects l).length - chosen.length, absent := (absentOf r.defects l).length } } }

theorem Sparse.insert_last {α : Type} {m : Sparse α} {i : Nat} (a : α) (h : ∀ p ∈ m, p.1 < i) :
    Sparse.insert m i a = m ++ [(i, a)] := by
  induction m with
  | nil => rfl
  | cons p m ih =>
    have below : p.1 < i := h p (by simp)
    rw [Sparse.insert, if_neg (by omega), if_neg (by omega), ih fun q hq => h q (by simp [hq]), List.cons_append]

theorem filter_append_one (p : Nat → Bool) (l : List Nat) (i : Nat) :
    (l ++ [i]).filter p = if p i = true then l.filter p ++ [i] else l.filter p := by
  rw [List.filter_append, List.filter_singleton]
  cases p i <;> simp

section
variable {m : SamplingRecipe} {r : RevisitScheduler} {i : Nat} {d : DefectEntry} (found : Sparse.lookup r.defects i = some d)
  (passes : verdict m d.attributes = true) (l : List Nat)
include found passes

theorem lists_of_passing : passingOf m r.defects (l ++ [i]) = passingOf m r.defects l ++ [i]
    ∧ skippedOf m r.defects (l ++ [i]) = skippedOf m r.defects l ∧ absentOf r.defects (l ++ [i]) = absentOf r.defects l := by
  simp [passingOf, skippedOf, absentOf, found, passes]

/-- Past the cap an index that passes is counted only. -/
theorem selectionOf_over (full : m.cap ≤ (passingOf m r.defects l).length) :
    modTallies (fun t => { t with overCap := t.overCap + 1 }) (selectionOf m r l) = selectionOf m r (l ++ [i]) := by
  obtain ⟨passing, skipped, absent⟩ := lists_of_passing found passes l
  have count : (passingOf m r.defects l).length + 1 - m.cap = (passingOf m r.defects l).length - m.cap + 1 := by omega
  simp only [modTallies, selectionOf, passing, skipped, absent, List.take_append_of_le_length full, List.length_append, List.length_take,
    Nat.min_eq_left full, List.length_cons, List.length_nil, Nat.zero_add, count]

/-- Below the cap it takes the next tag, last in the table and in the queue. -/
theorem selectionOf_room (room : (passingOf m r.defects l).length < m.cap) :
    let selected := (selectionOf m r l).session.tallies.selected
    let entered := putEntry selected (newEntry .regular (some i)) (selectionOf m r l)
    modTallies (fun t => { t with selected := t.selected + 1 }) { entered with queue := entered.queue ++ [selected] } =
      selectionOf m r (l ++ [i]) := by
  obtain ⟨passing, skipped, absent⟩ := lists_of_passing found passes l
  have all : (passingOf m r.defects l).take m.cap = passingOf m r.defects l := List.take_of_length_le room.le
  have more : (passingOf m r.defects l ++ [i]).take m.cap = passingOf m r.defects l ++ [i] :=
    List.take_of_length_le (by simpa using room)
  have keys : ∀ p ∈ (passingOf m r.defects l).mapIdx fun tag i => (tag, newEntry .regular (some i)),
      p.1 < (passingOf m r.defects l).length := by
    intro p hp
    obtain ⟨tag, inside, rfl⟩ := List.mem_mapIdx.1 hp
    exact inside
  simp only [modTallies, putEntry, selectionOf, passing, skipped, absent, all, more, Sparse.insert_last _ keys, List.mapIdx_concat,
    List.length_append, List.length_cons, List.length_nil, Nat.zero_add, List.range_succ, Nat.sub_self]

end

/-- Selection's step adds one index to the selection. -/
theorem selectIndex_selectionOf (m : SamplingRecipe) (r : RevisitScheduler) (l : List Nat) (i : Nat) :
    selectIndex m (selectionOf m r l) i = selectionOf m r (l ++ [i]) := by
  have defects : (selectionOf m r l).defects = r.defects := rfl
  unfold selectIndex
  rw [defects]
  cases found : Sparse.lookup r.defects i with
  | none =>
    simp only [selectionOf, passingOf, skippedOf, absentOf, filter_append_one, found]
    simp [modTallies]
  | some d =>
    cases passes : verdict m d.attributes with
    | false =>
      simp only [selectionOf, passingOf, skippedOf, absentOf, filter_append_one, found, passes]
      simp [modTallies, passes]
    | true =>
      have cap : m.cap ≤ (selectionOf m r l).session.tallies.selected ↔ m.cap ≤ (passingOf m r.defects l).length := by
        simp [selectionOf]
      simp only [passes, Bool.true_eq_false, if_false]
      by_cases full : m.cap ≤ (passingOf m r.defects l).length
      · rw [if_pos (cap.2 full), selectionOf_over found passes l full]
      · rw [if_neg (mt cap.1 full)]
        exact selectionOf_room found passes l (Nat.lt_of_not_le full)

theorem foldl_selectIndex (m : SamplingRecipe) (r : RevisitScheduler) (l : List Nat) :
    l.foldl (selectIndex m) (selectionOf m r []) = selectionOf m r l := by
  induction l using List.reverseRecOn with
  | nil => rfl
  | append_singleton l i ih => rw [List.foldl_append, ih, List.foldl_cons, List.foldl_nil, selectIndex_selectionOf]

/-- Every index passes, is rejected or has no defect. -/
theorem selection_counts (m : SamplingRecipe) (defects : Sparse DefectEntry) (l : List Nat) :
    (passingOf m defects l).length + (skippedOf m defects l).length + (absentOf defects l).length = l.length := by
  induction l with
  | nil => rfl
  | cons i l ih =>
    simp only [passingOf, skippedOf, absentOf] at ih ⊢
    cases found : Sparse.lookup defects i with
    | none =>
      simp only [List.filter_cons, found, Option.map_none, reduceCtorEq, decide_false, decide_true, Bool.false_eq_true, if_false, if_true,
        List.length_cons]
      omega
    | some d =>
      cases passes : verdict m d.attributes <;>
        simp only [List.filter_cons, found, Option.map_some, passes, Option.some.injEq, reduceCtorEq, decide_false, decide_true,
          Bool.false_eq_true, Bool.true_eq_false, if_false, if_true, List.length_cons] <;> omega

theorem tallies_unselected {t : WaferTallies} (selected : t.selected = 0) (skipped : t.skipped = 0) (overCap : t.overCap = 0)
    (absent : t.absent = 0) : { t with selected := 0, skipped := 0, overCap := 0, absent := 0 } = t := by
  obtain ⟨⟩ := t
  simp_all

/-- Settles O43: by induction on the range, last index first. -/
theorem selectionTakesTheFirstPassing : Obligations.SelectionTakesTheFirstPassing := by
  intro m start stop r selected skipped overCap absent
  have counts := selection_counts m r.defects (List.range' start (stop - start))
  have begins : ({ r with table := [], queue := [] } : RevisitScheduler) = selectionOf m r [] := by
    have zero : selectionOf m r [] = { r with
        table := [], queue := []
        session := { r.session with
          tallies := { r.session.tallies with selected := 0, skipped := 0, overCap := 0, absent := 0 } } } := by
      simp [selectionOf, passingOf, skippedOf, absentOf]
    rw [zero, tallies_unselected selected skipped overCap absent]
  refine ⟨?_, ?_, List.length_take_le _ _⟩
  · rw [runSelection, begins, foldl_selectIndex]
    rfl
  · rw [List.length_range'] at counts
    have bound := List.length_take_le' m.cap (passingOf m r.defects (List.range' start (stop - start)))
    have total : ((passingOf m r.defects (List.range' start (stop - start))).take m.cap).length
        + (skippedOf m r.defects (List.range' start (stop - start))).length
        + ((passingOf m r.defects (List.range' start (stop - start))).length
          - ((passingOf m r.defects (List.range' start (stop - start))).take m.cap).length)
        + (absentOf r.defects (List.range' start (stop - start))).length = stop - start := by omega
    exact total

/-! ## Zones -/

/-- Settles O44: the cell is the floor of a quotient, clamped. -/
theorem zoneOfTarget : Obligations.ZoneOfTarget := by
  have axis : ∀ v : Int, (zoneAxis v : Int) = clamp 0 11 ((v + 150000) / 25000) := fun v => by
    unfold zoneAxis clamp Config.zoneWidth
    split_ifs <;> omega
  intro x y
  have hx := axis x
  have hy := axis y
  simp only [zoneOf, clamp] at *
  refine ⟨zoneAxis_lt x, zoneAxis_lt y, fun k small low high => ?_, fun k small low high => ?_, fun h => ?_, fun h => ?_, fun h => ?_, fun h => ?_⟩
  all_goals split_ifs at hx hy <;> omega

/-! ## Reads of the target slot -/

theorem exec_targetRead_stage {r : ReadBurst} {s : State} (reads : ReadsSlot .target r s) (role : roleOf s.pi r.header = .stage) :
    exec (.targetRead r) s = .next
      { actOnTarget s with traffic := recordTraffic r (targetRecord (actingDirective s)) } := by
  rw [exec_served (c := .targetRead r) rfl (by decide) reads]
  simp only [serveTable, serveTarget, if_pos role]

theorem exec_targetRead_peek {r : ReadBurst} {s : State} (reads : ReadsSlot .target r s) (role : roleOf s.pi r.header ≠ .stage) :
    exec (.targetRead r) s = .next { s with traffic := recordTraffic r (targetRecord (targetDirective s.rs)) } := by
  rw [exec_served (c := .targetRead r) rfl (by decide) reads]
  simp only [serveTable, serveTarget, if_neg role]

/-! ## Dispatch (R100, R101) -/

/-- A STAGE read with the site free serves the directive of the state the dispatch leaves. -/
theorem exec_targetRead_dispatch {r : ReadBurst} {s : State} {w : WaferRecipe} (reads : ReadsSlot .target r s)
    (role : roleOf s.pi r.header = .stage) (active : s.rs.session.state = .active) (free : siteEntry s.rs = none)
    (recipe : s.rs.session.recipe = some w) {n : Nat} (length : s.rs.lane.length + s.rs.queue.length = n) :
    exec (.targetRead r) s = .next { dispatchLoop w n s with
      traffic := recordTraffic r (targetRecord (targetDirective (dispatchLoop w n s).rs)) } := by
  have acts : actOnTarget s = dispatchLoop w n s := by
    simp only [actOnTarget, if_pos active, free, dispatchNext, recipe, length]
  rw [exec_targetRead_stage reads role, actingDirective, free, acts]

/-- A table without a site entry, and one put in it that is. -/
theorem siteEntry_insert {r : RevisitScheduler} {table : Sparse RevisitEntry} {tag : Nat} {e : RevisitEntry}
    (made : r.table = Sparse.insert table tag e) (free : ∀ p ∈ table, isSite p.2.state = false) (site : isSite e.state = true) :
    siteEntry r = some (tag, e) := by
  cases found : siteEntry r with
  | none =>
    have mem : (tag, e) ∈ r.table := made ▸ Sparse.mem_of_lookup (Sparse.lookup_insert_same ..)
    exact absurd site (List.find?_eq_none.1 found _ mem)
  | some p =>
    obtain ⟨mem, here⟩ := siteEntry_mem found
    rw [made] at mem
    obtain rfl | old := Sparse.mem_insert mem
    · rfl
    · simp [free p old] at here

/-- A table without a site entry, and one put in it that is none either. -/
theorem siteFree_insert {table : Sparse RevisitEntry} {tag : Nat} {e : RevisitEntry} (free : ∀ p ∈ table, isSite p.2.state = false)
    (off : isSite e.state = false) : ∀ p ∈ Sparse.insert table tag e, isSite p.2.state = false := by
  intro p mem
  obtain rfl | old := Sparse.mem_insert mem
  · exact off
  · exact free p old

/-- The failure of an entry that is not at the site leaves the site alone (R114). -/
theorem failEntry_off_site {tag : Nat} {e : RevisitEntry} {s : State} (stored : Sparse.lookup s.rs.table tag = some e)
    (off : isSite e.state = false) (kind : e.kind ≠ .calibration) (reason : FailReason) :
    failEntry tag reason s = { s with
      rs := modTallies (fun t => { t with failed := t.failed + 1, failedBy := countReason reason t.failedBy })
        { s.rs with table := Sparse.insert s.rs.table tag { e with state := .failed } }
      ru := raiseIn s.pi.setup.enable .revisitFailed s.ru } := by
  simp only [failEntry, stored, off, Bool.false_eq_true, if_false, countIfCalibration_other kind, modTallies, countFailure_other kind]
  rfl

section
variable {w : WaferRecipe} {s : State} {tag : Nat} {popped : RevisitScheduler} {e : RevisitEntry} {x y : Int} {uncorrected : Bool}
  {fuel : Nat} (taken : takeCandidate s.rs = some (tag, popped)) (stored : Sparse.lookup popped.table tag = some e)
  (target : targetFor w popped e = some ((x, y), uncorrected))
include taken stored target

theorem dispatchLoop_inside (inside : x * x + y * y ≤ (w.geometry.radius : Int) * w.geometry.radius) :
    dispatchLoop w (fuel + 1) s = dispatchEntry tag e.kind (x, y) uncorrected { s with rs := popped } := by
  have on : offWafer w.geometry (x, y) = false := by simpa [offWafer] using inside
  simp only [dispatchLoop, taken, stored, target, on, Bool.false_eq_true, if_false]

theorem dispatchLoop_outside (outside : (w.geometry.radius : Int) * w.geometry.radius < x * x + y * y) :
    dispatchLoop w (fuel + 1) s = dispatchLoop w fuel (failEntry tag .offWafer { s with rs := popped }) := by
  have off : offWafer w.geometry (x, y) = true := by simpa [offWafer] using outside
  simp only [dispatchLoop, taken, stored, target, off, if_true]

end

theorem dispatchEntry_eq {s : State} {tag : Nat} {e : RevisitEntry} (stored : Sparse.lookup s.rs.table tag = some e)
    (kind : RevisitKind) (target : Int × Int) (uncorrected : Bool) :
    dispatchEntry tag kind target uncorrected s = { s with
      rs := { s.rs with
        session := { s.rs.session with sequence := s.rs.session.sequence + 1 }
        table := Sparse.insert s.rs.table tag (dispatchedEntry (s.rs.session.sequence + 1) target uncorrected e)
        timer := if s.pi.setup.arrivalLimit = 0 then .stopped else .running s.pi.setup.arrivalLimit 0 true }
      fe := { s.fe with context := some (newContext tag kind (zoneOf target)) } } := by
  simp only [dispatchEntry, modEntry, stored]
  rfl

/-- The directive while a review runs and the site holds an entry, and while it is free (R98, R99). -/
theorem targetDirective_site {r : RevisitScheduler} {tag : Nat} {e : RevisitEntry}
    (review : r.session.state = .active ∨ r.session.state = .ending) (site : siteEntry r = some (tag, e)) :
    targetDirective r = siteDirective r tag e := by
  obtain h | h := review <;> simp only [targetDirective, h, site]

/-- A dispatched entry is served MOVE (R98, R101). -/
theorem targetDirective_dispatchEntry {s : State} {tag : Nat} {e : RevisitEntry} (active : s.rs.session.state = .active)
    (free : ∀ p ∈ s.rs.table, isSite p.2.state = false) (stored : Sparse.lookup s.rs.table tag = some e) (kind : RevisitKind)
    (target : Int × Int) (uncorrected : Bool) :
    targetDirective (dispatchEntry tag kind target uncorrected s).rs =
      .move (s.rs.session.sequence + 1) tag e.kind (sourceOf s.rs e) target.1 target.2 uncorrected e.flags.restarted := by
  have made := dispatchEntry_eq stored kind target uncorrected
  have state : (dispatchEntry tag kind target uncorrected s).rs.session.state = .active := by rw [made]; exact active
  have site := siteEntry_insert (r := (dispatchEntry tag kind target uncorrected s).rs) (by rw [made]) free
    (e := dispatchedEntry (s.rs.session.sequence + 1) target uncorrected e) rfl
  rw [targetDirective_site (.inl state) site, made]
  rfl

theorem targetDirective_free {r : RevisitScheduler} (review : r.session.state = .active ∨ r.session.state = .ending)
    (free : siteEntry r = none) : targetDirective r = .idle := by
  obtain h | h := review <;> simp only [targetDirective, h, free]

/-- The candidate's target and source, for a calibration and for a defect (R94, R95, R98). -/
theorem targetFor_calibration {w : WaferRecipe} {r : RevisitScheduler} {e : RevisitEntry} (kind : e.kind = .calibration) :
    targetFor w r e = some ((w.focus.calX, w.focus.calY), false) := by
  simp only [targetFor, kind]

theorem targetFor_defect {w : WaferRecipe} {r : RevisitScheduler} {e : RevisitEntry} {i : Nat} {d : DefectEntry}
    (kind : e.kind ≠ .calibration) (defect : e.defect = some i) (found : Sparse.lookup r.defects i = some d) :
    targetFor w r e =
      some (defectTarget w.geometry r.session.offsetX r.session.offsetY (correctionOf r d) d, (correctionOf r d).isNone) := by
  cases k : e.kind
  case calibration => exact absurd k kind
  all_goals simp only [targetFor, k, defect, Option.bind_some, found, Option.map_some]

theorem sourceOf_none {r : RevisitScheduler} {e : RevisitEntry} (defect : e.defect = none) : sourceOf r e = 0 := by
  simp [sourceOf, defect]

theorem sourceOf_defect {r : RevisitScheduler} {e : RevisitEntry} {i : Nat} {d : DefectEntry} (defect : e.defect = some i)
    (found : Sparse.lookup r.defects i = some d) : sourceOf r e = d.source := by
  simp [sourceOf, defect, found]

/-- The candidate taken leaves the other list and the rest of the Revisit Scheduler. -/
theorem takeCandidate_spec {r popped : RevisitScheduler} {tag : Nat}
    (h : ∃ rest, (r.lane = tag :: rest ∧ popped = { r with lane := rest })
      ∨ (r.lane = [] ∧ r.queue = tag :: rest ∧ popped = { r with queue := rest })) :
    takeCandidate r = some (tag, popped) ∧ r.lane.length + r.queue.length = popped.lane.length + popped.queue.length + 1
      ∧ popped.table = r.table ∧ popped.session = r.session ∧ popped.defects = r.defects ∧ popped.corrections = r.corrections := by
  obtain ⟨rest, ⟨lane, rfl⟩ | ⟨lane, queue, rfl⟩⟩ := h
  · refine ⟨by simp only [takeCandidate, lane], ?_, rfl, rfl, rfl, rfl⟩
    simp only [lane, List.length_cons]
    omega
  · refine ⟨by simp only [takeCandidate, lane, queue], ?_, rfl, rfl, rfl, rfl⟩
    simp only [lane, queue, List.length_cons, List.length_nil]
    omega

/-- Settles O45: the loop's first turn takes the candidate; it is dispatched, or fails and the loop goes on as the read would. -/
theorem dispatchSendsTheNext : Obligations.DispatchSendsTheNext := by
  intro r s w reads role active free recipe
  have none := siteEntry_eq_none free
  refine ⟨fun lane queue => ?_, fun tag popped e x y uncorrected source candidate stored site => ?_⟩
  · rw [exec_targetRead_dispatch reads role active none recipe (n := 0) (by simp [lane, queue])]
    rw [dispatchLoop, targetDirective_free (.inl active) none]
  · obtain ⟨taken, length, table, session, defects, corrections⟩ := takeCandidate_spec candidate
    have held : Sparse.lookup popped.table tag = some e := table ▸ stored
    have off : isSite e.state = false := free _ (Sparse.mem_of_lookup stored)
    have target : targetFor w popped e = some ((x, y), uncorrected) ∧ sourceOf popped e = source := by
      obtain ⟨kind, defect, rfl, rfl, rfl, rfl⟩ | ⟨kind, i, d, defect, found, rfl, dx, dy, correction, zero, rfl, rfl⟩ := site
      · exact ⟨targetFor_calibration kind, sourceOf_none defect⟩
      · rw [← defects] at found
        refine ⟨?_, sourceOf_defect defect found⟩
        rw [targetFor_defect kind defect found, correctionOf, correctionIndex, corrections, correction, session]
        cases uncorrected with
        | false => rfl
        | true =>
          obtain ⟨rfl, rfl⟩ := zero rfl
          rfl
    obtain ⟨target, served⟩ := target
    refine ⟨fun inside => ?_, fun outside kind => ?_⟩
    · have move := targetDirective_dispatchEntry (s := { s with rs := popped }) (by rw [session, active]) (table ▸ free) held e.kind
        (x, y) uncorrected
      rw [exec_targetRead_dispatch reads role active none recipe length, dispatchLoop_inside taken held target inside, move,
        dispatchEntry_eq (s := { s with rs := popped }) held]
      simp only [served, session, table]
      rfl
    · have failed := failEntry_off_site (s := { s with rs := popped }) held off kind .offWafer
      simp only [table, session, modTallies, countReason] at failed
      rw [exec_targetRead_dispatch reads role active none recipe length, dispatchLoop_outside taken held target outside, failed,
        exec_targetRead_dispatch (w := w) (n := popped.lane.length + popped.queue.length)]
      · exact reads
      · exact role
      · exact active
      · exact siteEntry_eq_none (siteFree_insert free rfl)
      · exact recipe
      · rfl

/-! ## The other reads of the target slot (R98, R99, R106) -/

/-- A read that acts on nothing serves the directive of the state it finds. -/
theorem exec_targetRead_quiet {r : ReadBurst} {s : State} (reads : ReadsSlot .target r s)
    (quiet : roleOf s.pi r.header = .stage → actOnTarget s = s) :
    exec (.targetRead r) s = .next { s with traffic := recordTraffic r (targetRecord (targetDirective s.rs)) } := by
  by_cases role : roleOf s.pi r.header = .stage
  · have served : actingDirective s = targetDirective s.rs := by
      unfold actingDirective
      rw [quiet role]
      split <;> rfl
    rw [exec_targetRead_stage reads role, served, quiet role]
  · exact exec_targetRead_peek reads role

theorem actOnTarget_inactive {s : State} (h : s.rs.session.state ≠ .active) : actOnTarget s = s := if_neg h

theorem actOnTarget_site {s : State} {tag : Nat} {e : RevisitEntry} (site : siteEntry s.rs = some (tag, e))
    (state : e.state ≠ .recalling) : actOnTarget s = s := by
  simp only [actOnTarget, site, if_neg state, ite_self]

theorem flagByte_bits (f : EntryFlags) :
    flagByte f / 2 ^ 0 % 2 ^ 1 = f.restarted.toNat ∧ flagByte f / 2 ^ 1 % 2 ^ 1 = f.uncorrected.toNat
    ∧ flagByte f / 2 ^ 2 % 2 ^ 1 = f.positionOff.toNat ∧ flagByte f / 2 ^ 3 % 2 ^ 1 = f.focusFallback.toNat
    ∧ flagByte f / 2 ^ 4 % 2 ^ 1 = f.focusAtLimit.toNat ∧ flagByte f / 2 ^ 5 % 2 ^ 1 = f.clamped.toNat := by
  obtain ⟨a, b, c, d, e, g⟩ := f
  revert a b c d e g
  decide

/-- A flag's bit in the byte at 63:56. -/
theorem fld_flagByte (f : EntryFlags) (k : Nat) (inside : k < 8) : fld (put 56 8 (flagByte f)) (56 + k) 1 = flagByte f / 2 ^ k % 2 ^ 1 :=
  fld_put_within _ (by decide) (by omega)

theorem RevisitKind.code_lt (k : RevisitKind) : k.code < 256 := by cases k <;> decide

theorem targetRecord_fields (q : BitVec 16) (tag : Nat) (k : RevisitKind) (source : BitVec 32) (x y : Int) (u v p : Bool) :
    fld (targetRecord .idle)[0] 0 8 = 1 ∧ fld (targetRecord .hold)[0] 0 8 = 2
    ∧ (let l := targetRecord (.move q tag k source x y u v)
      fld l[0] 0 8 = 3 ∧ fld l[0] 16 16 = q.toNat ∧ fld l[0] 32 16 = tag % 65536 ∧ fld l[0] 48 8 = k.code
      ∧ fld l[0] 56 1 = v.toNat ∧ fld l[0] 57 1 = u.toNat ∧ fld l[1] 0 32 = source.toNat
      ∧ (-2147483648 ≤ x → x < 2147483648 → sfld l[2] 0 32 = x) ∧ (-2147483648 ≤ y → y < 2147483648 → sfld l[2] 32 32 = y))
    ∧ (let l := targetRecord (.stay q tag p)
      fld l[0] 0 8 = 4 ∧ fld l[0] 16 16 = q.toNat ∧ fld l[0] 32 16 = tag % 65536 ∧ fld l[0] 58 1 = p.toNat)
    ∧ (fld (targetRecord (.recall q))[0] 0 8 = 5 ∧ fld (targetRecord (.recall q))[0] 16 16 = q.toNat) := by
  have sequence : q.toNat < 65536 := q.isLt
  have number : source.toNat < 4294967296 := source.isLt
  obtain ⟨restarted, uncorrected, -⟩ := flagByte_bits { EntryFlags.clear with uncorrected := u, restarted := v }
  obtain ⟨-, -, off, -⟩ := flagByte_bits { EntryFlags.clear with positionOff := p }
  have bit0 := (fld_flagByte _ 0 (by decide)).trans restarted
  have bit1 := (fld_flagByte _ 1 (by decide)).trans uncorrected
  have bit2 := (fld_flagByte _ 2 (by decide)).trans off
  simp only [Nat.reduceAdd] at bit0 bit1 bit2
  refine ⟨?_, ?_, ?_, ?_, ?_⟩
  all_goals simp [targetRecord, lineOf, fld_or, fld_put_same, fld_put_apart, Nat.mod_eq_of_lt sequence, Nat.mod_eq_of_lt number,
    Nat.mod_eq_of_lt k.code_lt, bit0, bit1, bit2]
  exact sfld_pair x y

/-- Settles O46: the reads that act on nothing by the directive of their state; a recall served; the record field by field. -/
theorem targetReadsServed : Obligations.TargetReadsServed := by
  refine ⟨fun r s reads => ⟨fun state => ?_, fun state => ?_, fun free state => ?_, fun tag e sequence x y site review named aimed => ?_⟩,
    targetRecord_fields⟩
  · rw [exec_targetRead_quiet reads fun _ => actOnTarget_inactive (by simp [state]), targetDirective, state]
  · have idle : s.rs.session.state ≠ .active := by obtain h | h := state <;> simp [h]
    have hold : targetDirective s.rs = .hold := by obtain h | h := state <;> simp only [targetDirective, h]
    rw [exec_targetRead_quiet reads fun _ => actOnTarget_inactive idle, hold]
  · have review : s.rs.session.state = .active ∨ s.rs.session.state = .ending := state.symm.imp_left And.left
    have quiet : roleOf s.pi r.header = .stage → actOnTarget s = s := fun role => by
      obtain ending | ⟨-, other⟩ := state
      · exact actOnTarget_inactive (by simp [ending])
      · exact absurd role other
    rw [exec_targetRead_quiet reads quiet, targetDirective_free review (siteEntry_eq_none free)]
  · have directive := targetDirective_site review site
    refine ⟨fun source state known => ?_, fun state => ?_, fun state role => ?_, fun state active role stored => ?_⟩
    · have served : sourceOf s.rs e = source := by
        obtain ⟨defect, rfl⟩ | ⟨i, d, defect, found, rfl⟩ := known
        · exact sourceOf_none defect
        · exact sourceOf_defect defect found
      rw [exec_targetRead_quiet reads fun _ => actOnTarget_site site (by simp [state]), directive, siteDirective, state]
      simp only [named, aimed, served, Option.getD_some]
    · have other : e.state ≠ .recalling := by obtain h | h | h := state <;> simp [h]
      have stay : siteDirective s.rs tag e = .stay sequence tag e.flags.positionOff := by
        obtain h | h | h := state <;> simp only [siteDirective, h, named, Option.getD_some]
      rw [exec_targetRead_quiet reads fun _ => actOnTarget_site site other, directive, stay]
    · rw [exec_targetRead_peek reads role, directive, siteDirective, state]
      simp only [named, Option.getD_some]
    · have acts : actOnTarget s = makeRecall tag s := by simp only [actOnTarget, if_pos active, site, if_pos state]
      have recalled : actingDirective s = .recall sequence := by
        simp only [actingDirective, site, directive, siteDirective, state, named, Option.getD_some]
      rw [exec_targetRead_stage reads role, recalled, acts, makeRecall, leaveSite_eq stored]
      rfl

end Sys2Proof.Machine
end

section
/-! PROOFS. Focus plans, predictions and the step decision: the plan of a sweep (R125), the prediction and its roundings (R118, R123,
R139, R140), and the plan slot (R120 to R124, R132). -/

namespace Sys2Proof.Machine

/-! ## Plans (R125) -/

/-- Settles O50: the shift into the range, case by case, on the first sample and the span. -/
theorem plansLieInTheFocusRange : Obligations.PlansLieInTheFocusRange := by
  intro f centre n dz one fits
  have span : 0 ≤ ((n : Int) - 1) * dz := mul_nonneg (by omega) (Int.natCast_nonneg dz)
  simp only [makePlan]
  refine ⟨trivial, trivial, trivial, ?_, ?_, fun low high => ?_, fun low => ?_, fun low high => ?_⟩
  all_goals split_ifs <;> omega

/-! ## Rounded quotients (R118) -/

/-- A quotient of a value that is not negative, halves up. -/
theorem halfUp_spec {n d : Int} (pos : 0 < d) :
    2 * ((2 * n + d) / (2 * d) * d) ≤ 2 * n + d ∧ 2 * n - d < 2 * ((2 * n + d) / (2 * d) * d) := by
  have low := Int.ediv_mul_le (2 * n + d) (b := 2 * d) (by omega)
  have high := Int.lt_ediv_add_one_mul_self (2 * n + d) (b := 2 * d) (by omega)
  have shape : (2 * n + d) / (2 * d) * (2 * d) = 2 * ((2 * n + d) / (2 * d) * d) := by ring
  have next : ((2 * n + d) / (2 * d) + 1) * (2 * d) = 2 * ((2 * n + d) / (2 * d) * d) + 2 * d := by ring
  omega

/-- Quotients round to the nearest, halves away from zero. -/
theorem roundDiv_spec {n d : Int} (pos : 0 < d) :
    2 * |roundDiv n d * d - n| ≤ d ∧ (2 * |roundDiv n d * d - n| = d → |n| < |roundDiv n d * d|) := by
  unfold roundDiv
  split_ifs with sign
  · have ⟨high, low⟩ := halfUp_spec (n := n) pos
    rw [abs_of_nonneg sign]
    rcases abs_cases ((2 * n + d) / (2 * d) * d - n) with ⟨size, side⟩ | ⟨size, side⟩ <;>
      have := le_abs_self ((2 * n + d) / (2 * d) * d) <;> omega
  · have ⟨high, low⟩ := halfUp_spec (n := -n) pos
    rw [neg_mul, abs_of_neg (by omega : n < 0), abs_neg]
    rcases abs_cases (-((2 * -n + d) / (2 * d) * d) - n) with ⟨size, side⟩ | ⟨size, side⟩ <;>
      have := le_abs_self ((2 * -n + d) / (2 * d) * d) <;> omega

/-! ## Predictions (R123, R139) -/

theorem trackingValue_eq (z : Option Zone) :
    z.bind trackingValue = (z.filter fun v => v.trust = .tracking).map fun v => v.value := by
  cases z with
  | none => rfl
  | some v => by_cases h : v.trust = .tracking <;> simp [trackingValue, Option.filter, h]

theorem neighbourKeys_eq (z : Nat × Nat) : neighbourKeys z =
    (List.range 144).filter fun k => k / 12 ≤ z.1 + 1 ∧ z.1 ≤ k / 12 + 1 ∧ k % 12 ≤ z.2 + 1 ∧ z.2 ≤ k % 12 + 1
      ∧ k ≠ 12 * z.1 + z.2 := by
  unfold neighbourKeys
  congr 1
  funext k
  simp [zoneKey, Config.zonesPerAxis, Bool.and_assoc, bne, beq_eq_decide]

theorem trackingAmong_neighbours (zones : Sparse Zone) (z : Nat × Nat) : trackingAmong zones (neighbourKeys z) =
    ((List.range 144).filter fun k => k / 12 ≤ z.1 + 1 ∧ z.1 ≤ k / 12 + 1 ∧ k % 12 ≤ z.2 + 1 ∧ z.2 ≤ k % 12 + 1
      ∧ k ≠ 12 * z.1 + z.2).filterMap fun k => ((Sparse.lookup zones k).filter fun v => v.trust = .tracking).map fun v => v.value := by
  rw [trackingAmong, neighbourKeys_eq]
  exact List.filterMap_congr fun k _ => trackingValue_eq _

theorem trackingAll_eq (zones : Sparse Zone) :
    trackingAll zones = (zones.filter fun p => p.2.trust = .tracking).map fun p => p.2.value := by
  unfold trackingAll
  induction zones with
  | nil => rfl
  | cons p zones ih =>
    by_cases h : p.2.trust = .tracking
    · have value : trackingValue p.2 = some p.2.value := if_pos h
      simp [value, h, ih]
    · have value : trackingValue p.2 = none := if_neg h
      simp [value, h, ih]

section
variable {zones : Sparse Zone} {z : Nat × Nat}

theorem predict_zone {v : Zone} (f : FocusRecipe) (own : Sparse.lookup zones (zoneKey z) = some v) (tracking : v.trust = .tracking) :
    predict zones f z = (v.value, .zone) := by
  simp only [predict, own, Option.bind_some, trackingValue, if_pos tracking]

variable (untracked : ∀ v, Sparse.lookup zones (zoneKey z) = some v → v.trust ≠ .tracking) (f : FocusRecipe)
include untracked

theorem own_untracked : (Sparse.lookup zones (zoneKey z)).bind trackingValue = none := by
  cases own : Sparse.lookup zones (zoneKey z) with
  | none => rfl
  | some v => exact if_neg (untracked v own)

theorem predict_neighbours (near : trackingAmong zones (neighbourKeys z) ≠ []) :
    predict zones f z = (roundedMean (trackingAmong zones (neighbourKeys z)), .neighbours) := by
  simp only [predict, own_untracked untracked, if_pos near]

theorem predict_seed {v : Zone} (near : trackingAmong zones (neighbourKeys z) = [])
    (own : Sparse.lookup zones (zoneKey z) = some v) : predict zones f z = (v.value, .seed) := by
  have none := own_untracked untracked
  rw [own] at none
  simp only [predict, own, none, if_neg (not_not.2 near)]

theorem predict_far (near : trackingAmong zones (neighbourKeys z) = []) (own : Sparse.lookup zones (zoneKey z) = none) :
    predict zones f z = predictFar zones f := by
  simp only [predict, own_untracked untracked, if_neg (not_not.2 near)]
  rw [own]

end

theorem limitStep_cases (zone : Option Zone) (chosen : FocusStep) :
    (zone = none → limitStep zone chosen = .wide)
    ∧ ∀ v, zone = some v →
      (v.trust = .suspect → limitStep zone chosen = .wide)
      ∧ (v.trust = .seeded → limitStep zone chosen = if chosen = .wide then .wide else .narrow)
      ∧ (v.trust = .tracking → limitStep zone chosen = chosen) := by
  refine ⟨fun h => by rw [h]; rfl, fun v h => ?_⟩
  subst h
  refine ⟨fun trust => ?_, fun trust => ?_, fun trust => ?_⟩
  all_goals cases chosen <;> simp [limitStep, trust]

/-- Settles O51: the sources in their order, the roundings by their quotient's bounds, the limit by the zone's state. -/
theorem predictionSources : Obligations.PredictionSources := by
  refine ⟨fun zones f z => ?_, fun n d pos => roundDiv_spec pos, limitStep_cases⟩
  have near := trackingAmong_neighbours zones z
  have all := trackingAll_eq zones
  simp only [← near, ← all]
  refine ⟨fun v own tracking => predict_zone f own tracking, fun untracked => ⟨fun some => ?_, fun empty v own => ?_, fun empty own some => ?_,
    fun empty own none => ?_⟩⟩
  · exact predict_neighbours untracked f some
  · exact predict_seed untracked f empty own
  · rw [predict_far untracked f empty own, predictFar, if_neg some]
    rfl
  · rw [predict_far untracked f empty own, predictFar, if_pos none]

end Sys2Proof.Machine
end

section
/-! PROOFS. The plan slot: the step a COLUMN read decides, the directives, the record's fields and the modes (R120 to R124, R132, R169). -/

namespace Sys2Proof.Machine

/-! ## The site entry after a write -/

/-- The first site entry of a table, written anew at its tag, is the first site entry. -/
theorem find_site_insert {table : Sparse RevisitEntry} {tag : Nat} {e e' : RevisitEntry}
    (found : (table.find? fun p => isSite p.2.state) = some (tag, e)) (site : isSite e'.state = true) :
    ((Sparse.insert table tag e').find? fun p => isSite p.2.state) = some (tag, e') := by
  induction table with
  | nil => cases found
  | cons p table ih =>
    by_cases here : isSite p.2.state = true
    · simp only [List.find?_cons, here, Option.some.injEq] at found
      simp [found, Sparse.insert, site]
    · simp only [List.find?_cons, here] at found
      rw [Sparse.insert]
      split_ifs
      · simp [site]
      · simp [site]
      · simp [here, ih found]

/-- A site entry written at the site's tag is the site entry. -/
theorem siteEntry_rewrite {r r' : RevisitScheduler} {tag : Nat} {e e' : RevisitEntry} (found : siteEntry r = some (tag, e))
    (made : r'.table = Sparse.insert r.table tag e') (site : isSite e'.state = true) : siteEntry r' = some (tag, e') := by
  rw [siteEntry, made]
  exact find_site_insert found site

/-! ## Reads of the plan slot -/

/-- A read that decides no step serves the directive of the state it finds (R120, R121). -/
theorem exec_planRead_quiet {r : ReadBurst} {s : State} (reads : ReadsSlot .plan r s)
    (quiet : roleOf s.pi r.header = .column → actOnPlan s = s) :
    exec (.planRead r) s = .next { s with traffic := recordTraffic r (planRecord (planDirective s)) } := by
  rw [exec_served (c := .planRead r) rfl (by decide) reads]
  by_cases role : roleOf s.pi r.header = .column
  · simp only [serveTable, servePlan, if_pos role, quiet role]
  · simp only [serveTable, servePlan, if_neg role]

theorem exec_planRead_column {r : ReadBurst} {s : State} (reads : ReadsSlot .plan r s) (role : roleOf s.pi r.header = .column) :
    exec (.planRead r) s = .next
      { actOnPlan s with traffic := recordTraffic r (planRecord (planDirective (actOnPlan s))) } := by
  rw [exec_served (c := .planRead r) rfl (by decide) reads]
  simp only [serveTable, servePlan, if_pos role]

theorem actOnPlan_free {s : State} (free : siteEntry s.rs = none) : actOnPlan s = s := by simp only [actOnPlan, free]

section
variable {s : State} {tag : Nat} {e : RevisitEntry} (site : siteEntry s.rs = some (tag, e))
include site

theorem actOnPlan_other (state : e.state ≠ .arrived) : actOnPlan s = s := by simp only [actOnPlan, site, if_neg state]

theorem actOnPlan_arrived (state : e.state = .arrived) : actOnPlan s = decideStep tag e s := by simp only [actOnPlan, site, if_pos state]

theorem planDirective_idle (before : e.state = .dispatched ∨ e.state = .recalling ∨ e.state = .arrived) : planDirective s = .idle := by
  cases context : s.fe.context with
  | none => simp only [planDirective, site, context]
  | some c => obtain h | h | h := before <;> simp only [planDirective, site, context, h]

theorem planDirective_sweep {c : FocusContext} {p : SweepPlan} {number : Nat} {q : BitVec 16} (named : e.sequence = some q)
    (state : e.state = .focusing) (context : s.fe.context = some c) (plan : c.plan = some p) (count : c.sweepNumber = some number) :
    planDirective s = .sweep q tag e.kind number p.z0 p.dz p.n := by
  simp only [planDirective, site, context, state, plan, count, named, Option.getD_some]

theorem planDirective_image {c : FocusContext} {m : Mode} {focus prediction : Int} {source : FocusSource} {q : BitVec 16}
    (named : e.sequence = some q) (state : e.state = .focused) (context : s.fe.context = some c) (image : c.image = some (m, focus))
    (predicted : c.prediction = some (prediction, source)) :
    planDirective s = .image q tag e.kind focus m e.sweeps source e.flags := by
  simp only [planDirective, site, context, state, image, predicted, named, Option.getD_some]

end

theorem planDirective_free {s : State} (free : siteEntry s.rs = none) : planDirective s = .idle := by
  simp only [planDirective, free]

/-! ## The step decision (R122 to R124) -/

/-- The choice by kind: the cadence entry, NARROW, WIDE (R122). -/
theorem chooseStep_eq {w : WaferRecipe} {i : Nat} {kind : RevisitKind} {chosen : FocusStep}
    (h : (kind = .regular ∧ ∃ inside : i < 16, stepOfCode (w.sampling.cadence[i]'inside).toNat = some chosen)
      ∨ (kind = .urgent ∧ chosen = .narrow) ∨ (kind = .calibration ∧ chosen = .wide)) :
    chooseStep w.sampling i kind = chosen := by
  obtain ⟨rfl, inside, code⟩ | ⟨rfl, rfl⟩ | ⟨rfl, rfl⟩ := h
  · simp [chooseStep, cadenceStep, inside, code]
  · rfl
  · rfl

/-- The plan of a step that sweeps (R124). -/
def planOf (f : FocusRecipe) (step : FocusStep) (centre : Int) : SweepPlan :=
  if step = .wide then makePlan f centre f.wideN f.wideDz else makePlan f centre f.narrowN f.narrowDz

/-- The state a step decision leaves before the step itself: cadence index, step and prediction (R122, R123). -/
def decided (w : WaferRecipe) (c' : FocusContext) (kind : RevisitKind) (s : State) : State :=
  { s with
    rs := { s.rs with session := { s.rs.session with
      cadenceIndex := if kind = .regular then (s.rs.session.cadenceIndex + 1) % w.sampling.cadenceLength
        else s.rs.session.cadenceIndex } }
    fe := { s.fe with context := some c' } }

section
variable {s : State} {tag : Nat} {e : RevisitEntry} {w : WaferRecipe} {c c' : FocusContext} {step chosen : FocusStep}
  {p : Int × FocusSource} (recipe : s.rs.session.recipe = some w) (context : s.fe.context = some c)
  (choice : chooseStep w.sampling s.rs.session.cadenceIndex e.kind = chosen)
  (limited : step = limitStep (Sparse.lookup s.fe.zones (zoneKey c.zone)) chosen) (predicted : p = predict s.fe.zones w.focus c.zone)
  (filled : c' = { c with step := some step, prediction := some p })
include recipe context choice limited predicted filled

theorem decideStep_predict (h : step = .predict) : decideStep tag e s = becomeFocused tag p.1 id (decided w c' e.kind s) := by
  rw [h] at limited
  simp only [decideStep, recipe, context, choice, ← limited, ← predicted, filled, h]
  rfl

theorem decideStep_sweep (h : step ≠ .predict) :
    decideStep tag e s = beginSweep tag (planOf w.focus step (roundDiv p.1 16)) c' (decided w c' e.kind s) := by
  cases k : step
  case predict => exact absurd k h
  all_goals
    rw [k] at limited
    simp only [decideStep, recipe, context, choice, ← limited, ← predicted, filled, k]
    rfl

end

/-- The sweep that completes a step decision (R124). -/
theorem beginSweep_decided {s : State} {tag : Nat} {e : RevisitEntry} (stored : Sparse.lookup s.rs.table tag = some e) (plan : SweepPlan)
    (w : WaferRecipe) (c' : FocusContext) (kind : RevisitKind) :
    beginSweep tag plan c' (decided w c' kind s) = { decided w c' kind s with
      rs := { (decided w c' kind s).rs with
        table := Sparse.insert s.rs.table tag { e with state := .focusing, sweeps := 1 }
        timer := if s.pi.setup.focusLimit = 0 then .stopped else .running s.pi.setup.focusLimit 0 true }
      fe := { s.fe with context := some { c' with plan := some plan, sweepNumber := some 1 } } } := by
  rw [beginSweep, modEntry_of_lookup (r := (decided w c' kind s).rs) stored]
  rfl

/-! ## Becoming FOCUSED (R132) -/

theorem becomeFocused_none {s : State} {tag : Nat} {w : WaferRecipe} {c : FocusContext} (recipe : s.rs.session.recipe = some w)
    (context : s.fe.context = some c) (none : resolveMode w.geometry.modes s.fe.capability = none) (z : Int)
    (flags : EntryFlags → EntryFlags) : becomeFocused tag z flags s = failEntry tag .noMode s := by
  simp only [becomeFocused, recipe, context, none]

theorem becomeFocused_some {s : State} {tag : Nat} {e : RevisitEntry} {w : WaferRecipe} {c : FocusContext} {m : Mode}
    (recipe : s.rs.session.recipe = some w) (context : s.fe.context = some c) (stored : Sparse.lookup s.rs.table tag = some e)
    (resolved : resolveMode w.geometry.modes s.fe.capability = some m) (z : Int) (flags : EntryFlags → EntryFlags) :
    let wanted := z + 16 * w.geometry.offsets[m.index]
    let focus := clamp (16 * w.focus.floor) (16 * w.focus.ceiling) wanted
    becomeFocused tag z flags s =
      { s with
        rs := { s.rs with
          table := Sparse.insert s.rs.table tag { e with
            state := .focused
            flags := { flags e.flags with clamped := (flags e.flags).clamped || decide (focus ≠ wanted) } }
          timer := if s.pi.setup.imageLimit = 0 then .stopped else .running s.pi.setup.imageLimit 0 true }
        fe := { s.fe with context := some { c with image := some (m, focus) } } } := by
  simp only [becomeFocused, recipe, context, resolved, modEntry_of_lookup stored, bne, beq_eq_decide, ne_eq, decide_not]
  rfl

theorem modeOpen_iff (allowed capability : ModeSet) (m : Mode) : (hasMode allowed m && hasMode capability m) = true ↔
    allowed.getLsbD m.index.val = true ∧ capability.getLsbD m.index.val = true := by
  rw [Bool.and_eq_true]
  rfl

/-- The modes stand in the order of their places (R132). -/
theorem index_modesInOrder : ∀ j : Fin modesInOrder.length, (modesInOrder[j].index).val = j.val := by decide

theorem modesInOrder_index (m : Mode) : modesInOrder[m.index.val] = m := by cases m <;> rfl

theorem resolveMode_none {allowed capability : ModeSet}
    (closed : ∀ m : Mode, ¬ (allowed.getLsbD m.index.val = true ∧ capability.getLsbD m.index.val = true)) :
    resolveMode allowed capability = none :=
  List.find?_eq_none.2 fun m _ => mt (modeOpen_iff ..).1 (closed m)

/-- The first mode that is open, when those before it are closed (R132). -/
theorem resolveMode_first {allowed capability : ModeSet} {m : Mode}
    (here : allowed.getLsbD m.index.val = true ∧ capability.getLsbD m.index.val = true)
    (below : ∀ m' : Mode, m'.index < m.index → ¬ (allowed.getLsbD m'.index.val = true ∧ capability.getLsbD m'.index.val = true)) :
    resolveMode allowed capability = some m := by
  refine List.find?_eq_some_iff_getElem.2 ⟨(modeOpen_iff ..).2 here, m.index.val, m.index.isLt, modesInOrder_index m, fun j before => ?_⟩
  have inside : j < modesInOrder.length := before.trans m.index.isLt
  have place : (modesInOrder[j].index).val = j := index_modesInOrder ⟨j, inside⟩
  have closed := mt (modeOpen_iff ..).1 (below modesInOrder[j] (Fin.lt_def.2 (by omega)))
  simp only [Bool.not_eq_true] at closed
  rw [closed, Bool.not_false]

/-! ## The plan record (R169) -/

theorem fld_putS_apart {lo n lo' n' : Nat} (v : Int) (h : lo + n ≤ lo' ∨ lo' + n' ≤ lo) : fld (putS lo' n' v) lo n = 0 :=
  fld_put_apart _ h

/-- A signed value is read back from a word whose field is that of the value put alone. -/
theorem sfld_of_put {w : Word} {lo k : Nat} {v : Int} (room : lo + (k + 1) ≤ 64)
    (stored : fld w lo (k + 1) = fld (putS lo (k + 1) v) lo (k + 1)) (low : -2 ^ k ≤ v) (high : v < 2 ^ k) :
    sfld w lo (k + 1) = v := by
  have small : (v % 2 ^ (k + 1)).toNat < 2 ^ (k + 1) := by
    have cast : ((2 ^ (k + 1) : Nat) : Int) = 2 ^ (k + 1) := by simp
    have below := Int.emod_lt_of_pos v (b := 2 ^ (k + 1)) (by positivity)
    rw [Int.toNat_lt' (by positivity), cast]
    exact below
  refine sfld_of_fld ?_ low high
  rw [stored, putS, fld_put_same _ room, Nat.mod_eq_of_lt small]

theorem FocusSource.code_lt (x : FocusSource) : x.code < 256 := by cases x <;> decide

theorem planRecord_fields (q : BitVec 16) (tag : Nat) (k : RevisitKind) (number dz n sweeps : Nat) (z0 focus : Int) (m : Mode)
    (source : FocusSource) (x : EntryFlags) :
    fld (planRecord .idle)[0] 0 8 = 1
    ∧ (let l := planRecord (.sweep q tag k number z0 dz n)
      fld l[0] 0 8 = 2 ∧ fld l[0] 16 16 = q.toNat ∧ fld l[0] 32 16 = tag % 65536 ∧ fld l[0] 48 8 = k.code ∧ fld l[0] 56 8 = 0
      ∧ fld l[1] 0 8 = number % 256 ∧ fld l[1] 8 8 = n % 256 ∧ fld l[1] 16 8 = dz % 256
      ∧ (-32768 ≤ z0 → z0 < 32768 → sfld l[1] 32 16 = z0))
    ∧ (let l := planRecord (.image q tag k focus m sweeps source x)
      fld l[0] 0 8 = 3 ∧ fld l[0] 16 16 = q.toNat ∧ fld l[0] 32 16 = tag % 65536 ∧ fld l[0] 48 8 = k.code
      ∧ fld l[0] 56 2 = 0 ∧ fld l[0] 58 1 = x.positionOff.toNat ∧ fld l[0] 59 1 = x.focusFallback.toNat
      ∧ fld l[0] 60 1 = x.focusAtLimit.toNat ∧ fld l[0] 61 1 = x.clamped.toNat
      ∧ (-2147483648 ≤ focus → focus < 2147483648 → sfld l[1] 0 32 = focus)
      ∧ fld l[1] 32 8 = m.code ∧ fld l[1] 40 8 = sweeps % 256 ∧ fld l[1] 48 8 = source.code) := by
  have sequence : q.toNat < 65536 := q.isLt
  have mode : m.code < 256 := Nat.lt_of_le_of_lt (Nat.succ_le_of_lt m.index.isLt) (by decide)
  obtain ⟨restarted, uncorrected, off, fallback, limit, clamped⟩ := flagByte_bits { x with restarted := false, uncorrected := false }
  have bit2 := (fld_flagByte _ 2 (by decide)).trans off
  have bit3 := (fld_flagByte _ 3 (by decide)).trans fallback
  have bit4 := (fld_flagByte _ 4 (by decide)).trans limit
  have bit5 := (fld_flagByte _ 5 (by decide)).trans clamped
  simp only [Nat.reduceAdd] at bit2 bit3 bit4 bit5
  have start : -32768 ≤ z0 → z0 < 32768 → sfld (put 0 8 number ||| put 8 8 n ||| put 16 8 dz ||| putS 32 16 z0) 32 16 = z0 :=
    sfld_of_put (k := 15) (by decide) (by simp [fld_or, fld_put_apart, putS])
  have served : -2147483648 ≤ focus → focus < 2147483648 →
      sfld (putS 0 32 focus ||| put 32 8 m.code ||| put 40 8 sweeps ||| put 48 8 source.code) 0 32 = focus :=
    sfld_of_put (k := 31) (by decide) (by simp [fld_or, fld_put_apart, putS])
  have clear : fld (put 56 8 (flagByte { x with restarted := false, uncorrected := false })) 56 2 = 0 := by
    have within := fld_put_within (lo := 56) (n := 8) (k := 0) (m := 2)
      (flagByte { x with restarted := false, uncorrected := false }) (by decide) (by decide)
    simp only [Bool.toNat_false, Nat.add_zero] at restarted uncorrected within
    omega
  refine ⟨?_, ?_, ?_⟩
  all_goals simp [planRecord, lineOf, fld_or, fld_put_same, fld_put_apart, Nat.mod_eq_of_lt sequence, Nat.mod_eq_of_lt mode,
    Nat.mod_eq_of_lt k.code_lt, Nat.mod_eq_of_lt source.code_lt, bit2, bit3, bit4, bit5,
    fld_putS_apart, clear]
  · exact start
  · exact served

/-- Settles O52: the quiet reads by the directive of their state; the decided step by its limit; the record field by field; the mode by
its place. -/
theorem planReadDecidesTheStep : Obligations.PlanReadDecidesTheStep := by
  refine ⟨fun r s reads => ⟨fun free => ?idle, fun tag e q site named => ⟨fun before => ?early, fun arrived other => ?peek,
      fun c p number state context plan count => ?sweeping, fun c m focus prediction source state context image predicted => ?imaging,
      fun c w chosen arrived role context recipe stored choice => ⟨fun sweeps => ?begins, fun predicts => ?predicts⟩⟩⟩,
    planRecord_fields, rfl, rfl, rfl, fun s tag e w c z flags recipe context stored => ⟨fun closed => ?closed, fun m here below => ?mode⟩⟩
  case idle =>
    have none := siteEntry_eq_none free
    rw [exec_planRead_quiet reads fun _ => actOnPlan_free none, planDirective_free none]
  case early =>
    have other : e.state ≠ .arrived := by obtain h | h := before <;> simp [h]
    rw [exec_planRead_quiet reads fun _ => actOnPlan_other site other, planDirective_idle site (before.imp_right .inl)]
  case peek =>
    rw [exec_planRead_quiet reads fun role => absurd role other, planDirective_idle site (.inr (.inr arrived))]
  case sweeping =>
    rw [exec_planRead_quiet reads fun _ => actOnPlan_other site (by simp [state]), planDirective_sweep site named state context plan count]
  case imaging =>
    rw [exec_planRead_quiet reads fun _ => actOnPlan_other site (by simp [state]),
      planDirective_image site named state context image predicted]
  case begins =>
    have acts := (actOnPlan_arrived site arrived).trans
      (decideStep_sweep (tag := tag) recipe context (chooseStep_eq choice) rfl rfl rfl sweeps)
    rw [beginSweep_decided stored] at acts
    rw [exec_planRead_column reads role, acts, planDirective_sweep
      (siteEntry_rewrite (e' := { e with state := .focusing, sweeps := 1 }) site rfl rfl) named rfl rfl rfl rfl]
    rfl
  case predicts =>
    have acts := (actOnPlan_arrived site arrived).trans
      (decideStep_predict (tag := tag) recipe context (chooseStep_eq choice) rfl rfl rfl predicts)
    rw [exec_planRead_column reads role, acts]
    rfl
  case closed => exact becomeFocused_none recipe context (resolveMode_none closed) z flags
  case mode => exact becomeFocused_some recipe context stored (resolveMode_first here below) z flags

end Sys2Proof.Machine
end

section
/-! PROOFS. The sweep record: what a sweep gives, and the OK, FLAT and edge outcomes acted on (R126 to R129), the drift event and its
request (R84, R85, R146). -/

namespace Sys2Proof.Machine

/-! ## Recording a post that is taken commutes with the focus step -/

section
variable (n : Nat) (t : BitVec 8) (tag : Nat) (s : State)

theorem failEntry_recordPost (reason : FailReason) :
    failEntry tag reason (recordPost n t .taken s) = recordPost n t .taken (failEntry tag reason s) := by
  unfold failEntry
  rw [show (recordPost n t .taken s).rs = s.rs from rfl]
  cases Sparse.lookup s.rs.table tag <;> rfl

theorem becomeFocused_recordPost (z : Int) (flags : EntryFlags → EntryFlags) :
    becomeFocused tag z flags (recordPost n t .taken s) = recordPost n t .taken (becomeFocused tag z flags s) := by
  unfold becomeFocused
  rw [show (recordPost n t .taken s).rs = s.rs from rfl, show (recordPost n t .taken s).fe = s.fe from rfl]
  cases s.rs.session.recipe with
  | none => rfl
  | some w =>
    cases s.fe.context with
    | none => rfl
    | some c =>
      cases h : resolveMode w.geometry.modes s.fe.capability with
      | none => simp only [h, failEntry_recordPost]
      | some m =>
        simp only [h]
        rfl

theorem requestCalibration_recordPost :
    requestCalibration (recordPost n t .taken s) = recordPost n t .taken (requestCalibration s) := by
  unfold requestCalibration
  rw [show (recordPost n t .taken s).rs = s.rs from rfl]
  split_ifs <;> rfl

theorem drift_recordPost : drift (recordPost n t .taken s) = recordPost n t .taken (drift s) :=
  requestCalibration_recordPost n t { s with fe := driftEvent s.fe, ru := raiseIn s.pi.setup.enable .drift s.ru }

theorem foldSweep_recordPost (f : FocusRecipe) (c : FocusContext) (measured : Int) :
    foldSweep f c measured (recordPost n t .taken s) = recordPost n t .taken (foldSweep f c measured s) := by
  simp only [foldSweep]
  rw [show (recordPost n t .taken s).fe = s.fe from rfl]
  split_ifs
  · exact drift_recordPost n t { s with fe := foldMeasurement f c.zone measured ((c.prediction.map Prod.fst).getD 0) s.fe }
  · rfl

theorem actOnOk_recordPost (w : WaferRecipe) (c : FocusContext) (kind : RevisitKind) (raw : Int) :
    actOnOk w c tag kind raw (recordPost n t .taken s) = recordPost n t .taken (actOnOk w c tag kind raw s) := by
  simp only [actOnOk]
  rw [show markClamped tag (clampFocus w.focus raw != raw) (recordPost n t .taken s) =
    recordPost n t .taken (markClamped tag (clampFocus w.focus raw != raw) s) from rfl, foldSweep_recordPost]
  split_ifs
  · rfl
  · exact becomeFocused_recordPost n t tag _ _ _

theorem sweepAgain_recordPost (w : WaferRecipe) (centre : Int) (c : FocusContext) (e : RevisitEntry) :
    sweepAgain w centre c tag e (recordPost n t .taken s) = recordPost n t .taken (sweepAgain w centre c tag e s) := by
  simp only [sweepAgain, fallBack]
  split_ifs
  · rfl
  · rfl
  · exact becomeFocused_recordPost n t tag s _ _

theorem actOnSweep_recordPost (w : WaferRecipe) (c : FocusContext) (p : SweepPlan) (e : RevisitEntry) (scores : List Nat) :
    actOnSweep w c p tag e scores (recordPost n t .taken s) = recordPost n t .taken (actOnSweep w c p tag e scores s) := by
  simp only [actOnSweep]
  cases evaluateSweep w.focus p scores with
  | flat => exact sweepAgain_recordPost n t tag s w _ c e
  | edge k =>
    simp only [actOnEdge]
    split_ifs
    · exact becomeFocused_recordPost n t tag s _ _
    · exact sweepAgain_recordPost n t tag s w _ c e
  | ok raw => exact actOnOk_recordPost n t tag s w c e.kind raw

end

/-! ## The decision on a sweep record (R126) -/

theorem decideSweep_free {w : Line} {s : State} (free : siteEntry s.rs = none) : decideSweep w s = (.stale, s) := by
  simp only [decideSweep, free]
  rfl

section
variable {w : Line} {s : State} {tag : Nat} {e : RevisitEntry} (site : siteEntry s.rs = some (tag, e))
include site

theorem decideSweep_stale
    (other : e.state ≠ .focusing ∨ e.sequence ≠ some (recordSequence w)
      ∨ ∀ c, s.fe.context = some c → c.sweepNumber ≠ some (sweepNumberOf w)) :
    decideSweep w s = (.stale, s) := by
  unfold decideSweep
  rw [site]
  cases context : s.fe.context with
  | none => rfl
  | some c =>
    cases s.rs.session.recipe with
    | none => rfl
    | some recipe =>
      refine if_neg fun ⟨state, named, count⟩ => ?_
      obtain h | h | h := other
      · exact h state
      · exact h named
      · exact h c context count

variable {c : FocusContext} {recipe : WaferRecipe} {p : SweepPlan} (context : s.fe.context = some c)
  (latched : s.rs.session.recipe = some recipe) (plan : c.plan = some p)
  (named : e.state = .focusing ∧ e.sequence = some (recordSequence w) ∧ c.sweepNumber = some (sweepNumberOf w))
include context latched plan named

theorem decideSweep_outOfRange (count : sweepCount w ≠ p.n) : decideSweep w s = (.outOfRange, s) := by
  simp only [decideSweep, site, context, latched, if_pos named, plan, if_neg count]
  rfl

theorem decideSweep_taken (count : sweepCount w = p.n) :
    decideSweep w s = (.taken, actOnSweep recipe c p tag e (sweepScores w p.n) s) := by
  simp only [decideSweep, site, context, latched, if_pos named, plan, if_pos count]
  rfl

end

/-- A sweep record taken acts on the state of the post taken. -/
theorem exec_sweep_taken {b : WriteBurst} {s : State} {tag : Nat} {e : RevisitEntry} {c : FocusContext} {recipe : WaferRecipe}
    {p : SweepPlan} (h : Offers .sweep .sweep b s) (site : siteEntry s.rs = some (tag, e)) (context : s.fe.context = some c)
    (latched : s.rs.session.recipe = some recipe) (plan : c.plan = some p)
    (named : e.state = .focusing ∧ e.sequence = some (recordSequence (recordWords .sweep b s))
      ∧ c.sweepNumber = some (sweepNumberOf (recordWords .sweep b s)))
    (count : sweepCount (recordWords .sweep b s) = p.n) :
    exec (.sweep b) s =
      .next (actOnSweep recipe c p tag e (sweepScores (recordWords .sweep b s) p.n) (takenPost .sweep b s)) := by
  rw [exec_accepted (c := .sweep b) h rfl rfl (by decide)
    (decideSweep_taken (s := offeredState .sweep b s) site context latched plan named count), ← actOnSweep_recordPost]
  rfl

/-! ## Sweep evaluation (R127) -/

theorem sweepScores_length (w : Line) {n : Nat} (few : n ≤ 12) : (sweepScores w n).length = n := by
  simp [sweepScores, few]

theorem sweepScores_getElem (w : Line) (n : Nat) (j : Nat) (inside : j < (sweepScores w n).length) :
    (sweepScores w n)[j] = sweepScore w ⟨j, by simp [sweepScores] at inside; omega⟩ := by
  simp [sweepScores]

theorem sweepScores_getD (w : Line) {n : Nat} (few : n ≤ 12) (j : Fin 12) (inside : j.val < n) :
    (sweepScores w n).getD j.val 0 = sweepScore w j := by
  have bound : j.val < (sweepScores w n).length := by rwa [sweepScores_length w few]
  rw [List.getD_eq_getElem _ _ bound, sweepScores_getElem]

section
variable {w : Line} {n : Nat} {k : Fin 12} (few : n ≤ 12) (inside : k.val < n)
  (greatest : ∀ j : Fin 12, j.val < n → sweepScore w j ≤ sweepScore w k) (first : ∀ j : Fin 12, j < k → sweepScore w j < sweepScore w k)
include few inside greatest first

/-- The peak is the first sample of the greatest score (R127). -/
theorem peakIndex_sweepScores : peakIndex (sweepScores w n) = k.val := by
  have length := sweepScores_length w few
  rw [peakIndex, List.findIdx_eq (by omega)]
  refine ⟨List.all_eq_true.2 fun x mem => ?_, fun j before => ?_⟩
  · obtain ⟨j, bound, rfl⟩ := List.getElem_of_mem mem
    rw [sweepScores_getElem, sweepScores_getElem, decide_eq_true_iff]
    rw [length] at bound
    exact greatest _ bound
  · rw [List.all_eq_false]
    refine ⟨(sweepScores w n)[k.val], List.getElem_mem _, ?_⟩
    rw [sweepScores_getElem, sweepScores_getElem, decide_eq_true_iff, not_le]
    exact first _ before

theorem evaluateSweep_flat {f : FocusRecipe} (p : SweepPlan) (flat : sweepScore w k < f.contrastFloor) :
    evaluateSweep f p (sweepScores w n) = .flat := by
  simp only [evaluateSweep, peakIndex_sweepScores few inside greatest first, sweepScores_getD w few k inside, if_pos flat]

theorem evaluateSweep_edge {f : FocusRecipe} {p : SweepPlan} (sharp : f.contrastFloor ≤ sweepScore w k)
    (edge : k.val = 0 ∨ k.val + 1 = p.n) : evaluateSweep f p (sweepScores w n) = .edge k.val := by
  simp only [evaluateSweep, peakIndex_sweepScores few inside greatest first, sweepScores_getD w few k inside, if_neg (not_lt.2 sharp),
    if_pos edge]

theorem evaluateSweep_ok {f : FocusRecipe} {p : SweepPlan} (sharp : f.contrastFloor ≤ sweepScore w k)
    (between : ¬ (k.val = 0 ∨ k.val + 1 = p.n)) : evaluateSweep f p (sweepScores w n) = .ok (interpolate p (sweepScores w n) k.val) := by
  simp only [evaluateSweep, peakIndex_sweepScores few inside greatest first, sweepScores_getD w few k inside, if_neg (not_lt.2 sharp),
    if_neg between]

end

/-- The interpolated peak of a sweep whose greatest score lies inside it (R127). -/
theorem interpolate_sweepScores {w : Line} {n : Nat} (few : n ≤ 12) {k : Fin 12} (low : 0 < k.val) (high : k.val + 1 < n)
    (p : SweepPlan) :
    let before : Int := sweepScore w k - sweepScore w ⟨k.val - 1, by omega⟩
    let after : Int := sweepScore w k - sweepScore w ⟨k.val + 1, by omega⟩
    interpolate p (sweepScores w n) k.val = 16 * (p.z0 + k.val * p.dz) + roundDiv (8 * p.dz * (before - after)) (before + after) := by
  have here := sweepScores_getD w few k (by omega)
  have left := sweepScores_getD w few ⟨k.val - 1, by omega⟩ (show k.val - 1 < n by omega)
  have right := sweepScores_getD w few ⟨k.val + 1, by omega⟩ high
  simp only at left right
  simp only [interpolate, here, left, right]

/-! ## The drift event and its request (R84, R85, R146) -/

/-- A calibration request is suppressed (R84). -/
abbrev Barred (r : RevisitScheduler) : Prop :=
  r.session.state ≠ .active ∨ 4 ≤ laneOccupancy r ∨ ∃ e, Sparse.lookup r.table 511 = some e ∧ isSite e.state = true

theorem calibrationAdmitted_iff (r : RevisitScheduler) : calibrationAdmitted r = true ↔ ¬ Barred r := by
  have tag : Config.calibrationTag = 511 := rfl
  have lane := laneFull_iff r
  have site : ((Sparse.lookup r.table 511).map fun e => isSite e.state).getD false = true ↔
      ∃ e, Sparse.lookup r.table 511 = some e ∧ isSite e.state = true := by
    cases Sparse.lookup r.table 511 <;> simp
  rw [calibrationAdmitted, Bool.and_eq_true, Bool.and_eq_true, Bool.not_eq_true', Bool.not_eq_true', ← Bool.not_eq_true,
    ← Bool.not_eq_true, lane, tag, site, beq_iff_eq, and_assoc]
  simp only [Barred, not_or, ne_eq, not_not]

theorem driftReached_iff (f : FocusRecipe) (t : FocusStats) :
    driftReached f t = true ↔ f.driftLimit ≠ 0 ∧ f.driftLimit ≤ t.runCount := by
  simp [driftReached]

/-- A join and its recall change no entry's presence. -/
theorem recallOnJoin_isSome (r : RevisitScheduler) (i : Nat) :
    (Sparse.lookup (recallOnJoin r).table i).isSome = (Sparse.lookup r.table i).isSome := by
  unfold recallOnJoin
  split
  · split_ifs
    · rw [modEntry_lookup]
      split_ifs with same
      · rw [Option.isSome_map, same]
      · rfl
    · rfl
  · rfl

/-- No fold removes an entry. -/
theorem foldSweep_lookup {f : FocusRecipe} {c : FocusContext} {measured : Int} {s : State} {tag : Nat} {e : RevisitEntry}
    (stored : Sparse.lookup s.rs.table tag = some e) : ∃ e', Sparse.lookup (foldSweep f c measured s).rs.table tag = some e' := by
  simp only [foldSweep]
  split_ifs
  · simp only [drift, requestCalibration]
    split_ifs
    · refine Option.isSome_iff_exists.1 ((recallOnJoin_isSome _ tag).trans ?_)
      simp only [laneHead, putEntry, Sparse.lookup_insert]
      split_ifs
      · rfl
      · rw [stored, Option.isSome_some]
    · exact ⟨e, stored⟩
  · exact ⟨e, stored⟩

theorem markClamped_eq {tag : Nat} {e : RevisitEntry} {s : State} (stored : Sparse.lookup s.rs.table tag = some e) (v w : Int) :
    markClamped tag (v != w) s = { s with
      rs := { s.rs with
        table := Sparse.insert s.rs.table tag { e with flags := { e.flags with clamped := e.flags.clamped || decide (v ≠ w) } } } } := by
  simp only [markClamped, modEntry_of_lookup stored, bne, beq_eq_decide, ne_eq, decide_not]

section
variable {f : FocusRecipe} {c : FocusContext} {measured prediction : Int} {source : FocusSource} {s : State}
  (predicted : c.prediction = some (prediction, source))
include predicted

theorem foldSweep_calm
    (calm : f.driftLimit = 0 ∨ (foldMeasurement f c.zone measured prediction s.fe).stats.runCount < f.driftLimit) :
    foldSweep f c measured s = { s with fe := foldMeasurement f c.zone measured prediction s.fe } := by
  have off : ¬ driftReached f (foldMeasurement f c.zone measured prediction s.fe).stats = true := by
    rw [driftReached_iff]
    omega
  simp only [foldSweep, predicted, Option.map_some, Option.getD_some, if_neg off]

theorem foldSweep_drift (on : f.driftLimit ≠ 0)
    (reached : f.driftLimit ≤ (foldMeasurement f c.zone measured prediction s.fe).stats.runCount) :
    foldSweep f c measured s = drift { s with fe := foldMeasurement f c.zone measured prediction s.fe } := by
  have go := (driftReached_iff f (foldMeasurement f c.zone measured prediction s.fe).stats).2 ⟨on, reached⟩
  simp only [foldSweep, predicted, Option.map_some, Option.getD_some, if_pos go]

end

/-- The CLAMPED flag of the site entry kept or set (R127). -/
def clampedAt (tag : Nat) (e : RevisitEntry) (changed : Bool) (s : State) : State :=
  { s with
    rs := { s.rs with
      table := Sparse.insert s.rs.table tag { e with flags := { e.flags with clamped := e.flags.clamped || changed } } } }

/-- An OK sweep of a calibration retires it, measured (R128). -/
theorem actOnOk_calibration {w : WaferRecipe} {c : FocusContext} {tag : Nat} {e : RevisitEntry} {raw : Int} {s : State}
    (stored : Sparse.lookup s.rs.table tag = some e) {measured : Int} (clamped : measured = clampFocus w.focus raw) :
    ∃ e', Sparse.lookup (foldSweep w.focus c measured (clampedAt tag e (decide (measured ≠ raw)) s)).rs.table tag = some e'
      ∧ actOnOk w c tag .calibration raw s =
        { foldSweep w.focus c measured (clampedAt tag e (decide (measured ≠ raw)) s) with
          rs := { (foldSweep w.focus c measured (clampedAt tag e (decide (measured ≠ raw)) s)).rs with
            timer := .stopped
            table := Sparse.insert (foldSweep w.focus c measured (clampedAt tag e (decide (measured ≠ raw)) s)).rs.table tag
              { e' with state := .retired } }
          fe := { countCalRun (foldSweep w.focus c measured (clampedAt tag e (decide (measured ≠ raw)) s)).fe with context := none } } := by
  subst clamped
  obtain ⟨e', found⟩ := foldSweep_lookup (f := w.focus) (c := c) (measured := clampFocus w.focus raw)
    (s := clampedAt tag e (decide (clampFocus w.focus raw ≠ raw)) s) (tag := tag) (Sparse.lookup_insert_same ..)
  have marked : markClamped tag (clampFocus w.focus raw != raw) s = clampedAt tag e (decide (clampFocus w.focus raw ≠ raw)) s :=
    markClamped_eq stored _ _
  refine ⟨e', found, ?_⟩
  simp only [actOnOk, marked, if_true, retireEntry]
  generalize foldSweep w.focus c (clampFocus w.focus raw) (clampedAt tag e (decide (clampFocus w.focus raw ≠ raw)) s) = t at found ⊢
  rw [leaveSite_eq (s := { t with fe := countCalRun t.fe }) found]

theorem actOnOk_other {w : WaferRecipe} {c : FocusContext} {tag : Nat} {e : RevisitEntry} {raw : Int} {s : State}
    (stored : Sparse.lookup s.rs.table tag = some e) {measured : Int} (clamped : measured = clampFocus w.focus raw)
    {kind : RevisitKind} (other : kind ≠ .calibration) :
    actOnOk w c tag kind raw s =
      becomeFocused tag measured id (foldSweep w.focus c measured (clampedAt tag e (decide (measured ≠ raw)) s)) := by
  subst clamped
  have marked : markClamped tag (clampFocus w.focus raw != raw) s = clampedAt tag e (decide (clampFocus w.focus raw ≠ raw)) s :=
    markClamped_eq stored _ _
  simp only [actOnOk, marked, if_neg other]

/-- Settles O53: the refusals by the owner's checks, the OK sweep by its evaluation, fold and end, the drift event by its request. -/
theorem sweepOkDecided : Obligations.SweepOkDecided := by
  refine ⟨fun b s h => ⟨fun free => ?free, fun tag e site other => ?stale,
    fun tag e c recipe p site context latched plan => ⟨fun named count => ?range,
      fun named count score k prediction stored predicted scores low high few greatest first sharp => ?ok⟩⟩,
    fun s => ⟨fun barred => ?barred, fun clear => ?admitted⟩⟩
  case free =>
    exact exec_refused h rfl rfl (by decide) (by decide) (decideSweep_free (s := offeredState .sweep b s) (siteEntry_eq_none free))
  case stale => exact exec_refused h rfl rfl (by decide) (by decide) (decideSweep_stale (s := offeredState .sweep b s) site other)
  case range =>
    exact exec_refused h rfl rfl (by decide) (by decide)
      (decideSweep_outOfRange (s := offeredState .sweep b s) site context latched plan named count)
  case ok =>
    have values : ∀ j : Fin 12, score j = sweepScore (recordWords .sweep b s) j := scores
    have most : ∀ j : Fin 12, j.val < p.n → sweepScore (recordWords .sweep b s) j ≤ sweepScore (recordWords .sweep b s) k := fun j inside => by
      have bound := greatest j inside
      rw [values, values] at bound
      omega
    have earlier : ∀ j : Fin 12, j < k → sweepScore (recordWords .sweep b s) j < sweepScore (recordWords .sweep b s) k := fun j before => by
      have bound := first j before
      rw [values, values] at bound
      omega
    have bright : recipe.focus.contrastFloor ≤ sweepScore (recordWords .sweep b s) k := by
      rw [values] at sharp
      omega
    have run := exec_sweep_taken h site context latched plan named count
    have peak := interpolate_sweepScores (w := recordWords .sweep b s) few low high p
    simp only [← values] at peak
    rw [actOnSweep, evaluateSweep_ok few (by omega) most earlier bright (by omega), peak] at run
    intro before after raw measured marked folded
    refine ⟨fun calibration => ?_, fun other => ?_, foldSweep_calm (s := marked) predicted,
      foldSweep_drift (s := marked) predicted⟩
    · obtain ⟨e', found, acts⟩ := actOnOk_calibration (w := recipe) (c := c) (raw := raw) (s := takenPost .sweep b s) stored
        (measured := measured) rfl
      rw [calibration] at run
      exact ⟨e', found, run.trans (congrArg _ acts)⟩
    · exact run.trans (congrArg _ (actOnOk_other (w := recipe) (c := c) (raw := raw) (s := takenPost .sweep b s) stored
        (measured := measured) rfl other))
  case barred =>
    have refused : ¬ calibrationAdmitted s.rs = true := fun h => (calibrationAdmitted_iff _).1 h barred
    rw [drift, requestCalibration, if_neg refused]
    rfl
  case admitted =>
    rw [drift, requestCalibration, if_pos ((calibrationAdmitted_iff s.rs).2 clear)]
    rfl

/-! ## A FLAT or edge sweep (R129) -/

section
variable {w : WaferRecipe} {c : FocusContext} {tag : Nat} {e : RevisitEntry} {s : State} (centre : Int)

theorem sweepAgain_left (stored : Sparse.lookup s.rs.table tag = some e) {number : Nat} (count : c.sweepNumber = some number)
    (left : e.sweeps < w.focus.maxSweeps) :
    sweepAgain w centre c tag e s = { s with
      rs := { s.rs with table := Sparse.insert s.rs.table tag { e with sweeps := e.sweeps + 1 } }
      fe := { s.fe with
        context := some { c with
          plan := some (makePlan w.focus centre w.focus.wideN w.focus.wideDz), sweepNumber := some (number + 1) } } } := by
  simp only [sweepAgain, if_pos left, reSweep, modEntry_of_lookup stored, count, Option.map_some]
  rfl

variable {prediction : Int × FocusSource} (predicted : c.prediction = some prediction) (spent : w.focus.maxSweeps ≤ e.sweeps)
include spent

include predicted in
theorem sweepAgain_spent (other : e.kind ≠ .calibration) :
    sweepAgain w centre c tag e s = becomeFocused tag prediction.1 (fun x => { x with focusFallback := true }) s := by
  simp only [sweepAgain, if_neg (not_lt.2 spent), fallBack, if_neg other, predicted, Option.map_some, Option.getD_some]

theorem sweepAgain_unmeasured (stored : Sparse.lookup s.rs.table tag = some e) (calibration : e.kind = .calibration) :
    sweepAgain w centre c tag e s = { s with
      rs := { s.rs with timer := .stopped, table := Sparse.insert s.rs.table tag { e with state := .retired } }
      fe := { s.fe with
        context := none, stats := { s.fe.stats with calUnmeasured := min (s.fe.stats.calUnmeasured + 1) 255 } } } := by
  simp only [sweepAgain, if_neg (not_lt.2 spent), fallBack, if_pos calibration, retireEntry,
    leaveSite_eq (s := { s with fe := countUnmeasured s.fe }) stored]
  rfl

end

theorem pinned_iff (f : FocusRecipe) (edge : Int) (p : SweepPlan) : pinned f edge p = true ↔
    (makePlan f edge f.wideN f.wideDz).z0 = p.z0 ∧ (makePlan f edge f.wideN f.wideDz).dz = p.dz
      ∧ (makePlan f edge f.wideN f.wideDz).n = p.n := by
  simp only [pinned, widePlan, Bool.and_eq_true, beq_iff_eq, and_assoc]

/-- Settles O54: the sweep's evaluation, the pinned test, then the sweeps left. -/
theorem sweepMissDecided : Obligations.SweepMissDecided := by
  intro b s tag e c recipe p number prediction score k h site context latched plan state sequence sent named count few predicted stored
    scores inside greatest first t f edge again miss
  have values : ∀ j : Fin 12, score j = sweepScore (recordWords .sweep b s) j := scores
  simp only [values] at greatest first
  have run := exec_sweep_taken h site context latched plan ⟨state, sequence, sent.trans (congrArg some named)⟩ count
  have missed (centre : Int)
      (acts : actOnSweep recipe c p tag e (sweepScores (recordWords .sweep b s) p.n) t = sweepAgain recipe centre c tag e t) :
      miss centre := by
    refine ⟨fun left => ?_, fun spent other => ?_, fun spent calibration => ?_⟩
    · exact run.trans (congrArg _ (acts.trans (sweepAgain_left (s := t) centre stored sent left)))
    · exact run.trans (congrArg _ (acts.trans (sweepAgain_spent (s := t) centre predicted spent other)))
    · exact run.trans (congrArg _ (acts.trans (sweepAgain_unmeasured (s := t) centre spent stored calibration)))
  refine ⟨fun flat => ?_, fun sharp ends => ⟨fun same => ?_, fun other => ?_⟩⟩
  · refine missed _ ?_
    rw [actOnSweep, evaluateSweep_flat few inside greatest first p (values k ▸ flat)]
  · rw [run, actOnSweep, evaluateSweep_edge few inside greatest first (values k ▸ sharp) ends]
    simp only [actOnEdge]
    rw [if_pos ((pinned_iff ..).2 same)]
  · refine missed _ ?_
    rw [actOnSweep, evaluateSweep_edge few inside greatest first (values k ▸ sharp) ends]
    simp only [actOnEdge]
    rw [if_neg (mt (pinned_iff ..).1 other)]

end Sys2Proof.Machine
end

section
/-! PROOFS. What the blocks do does not depend on the ports: every owner's decision, every judge's, and what their operations leave
stand the same under other traffic (log 7). -/

namespace Sys2Proof.Machine

/-- The state under other traffic. -/
def onPorts (x : Traffic) (s : State) : State := { s with traffic := x }

/-- An owner neither reads the ports nor changes them. -/
def PortFree (own : Owner) : Prop := ∀ x w s, own w (onPorts x s) = ((own w s).1, onPorts x (own w s).2)

/-- A judge of handler commands neither reads the ports nor changes them. -/
def JudgePortFree (judge : CommandJudge) : Prop := ∀ x w tag s, judge w tag (onPorts x s) = (judge w tag s).map (onPorts x)

@[simp] theorem onPorts_pi (x : Traffic) (s : State) : (onPorts x s).pi = s.pi := rfl
@[simp] theorem onPorts_wt (x : Traffic) (s : State) : (onPorts x s).wt = s.wt := rfl
@[simp] theorem onPorts_rs (x : Traffic) (s : State) : (onPorts x s).rs = s.rs := rfl
@[simp] theorem onPorts_fe (x : Traffic) (s : State) : (onPorts x s).fe = s.fe := rfl
@[simp] theorem onPorts_ru (x : Traffic) (s : State) : (onPorts x s).ru = s.ru := rfl

/-! ## Operations -/

section
variable (x : Traffic) (s : State)

theorem chamberEntry_onPorts (c : CarrierSlot) : chamberEntry c (onPorts x s) = onPorts x (chamberEntry c s) := by
  simp only [chamberEntry, onPorts]
  cases latchRecipe s.pi <;> rfl

theorem exitDone_onPorts : exitDone (onPorts x s) = onPorts x (exitDone s) := by
  simp only [exitDone, onPorts]
  cases s.rs.session.chamberSlot <;> rfl

theorem restTest_onPorts : restTest (onPorts x s) = onPorts x (restTest s) := by
  unfold restTest
  rw [onPorts_wt]
  split_ifs <;> rfl

theorem failEntry_onPorts (tag : Nat) (reason : FailReason) : failEntry tag reason (onPorts x s) = onPorts x (failEntry tag reason s) := by
  simp only [failEntry, onPorts]
  cases Sparse.lookup s.rs.table tag <;> rfl

theorem becomeFocused_onPorts (tag : Nat) (z : Int) (flags : EntryFlags → EntryFlags) :
    becomeFocused tag z flags (onPorts x s) = onPorts x (becomeFocused tag z flags s) := by
  have failed := failEntry_onPorts x s tag .noMode
  simp only [becomeFocused, onPorts] at failed ⊢
  cases s.rs.session.recipe with
  | none => rfl
  | some w =>
    cases s.fe.context with
    | none => rfl
    | some c =>
      cases h : resolveMode w.geometry.modes s.fe.capability with
      | none => simp only [h, failed]
      | some m => simp only [h]

theorem requestCalibration_onPorts : requestCalibration (onPorts x s) = onPorts x (requestCalibration s) := by
  unfold requestCalibration
  rw [onPorts_rs]
  split_ifs <;> rfl

theorem drift_onPorts : drift (onPorts x s) = onPorts x (drift s) :=
  requestCalibration_onPorts x { s with fe := driftEvent s.fe, ru := raiseIn s.pi.setup.enable .drift s.ru }

theorem applyIdRead_onPorts (c : CarrierSlot) (ok : Bool) (chars : WaferId) :
    applyIdRead c ok chars (onPorts x s) = onPorts x (applyIdRead c ok chars s) := by
  simp only [applyIdRead]
  rw [onPorts_wt]
  split_ifs <;> rfl

theorem foldSweep_onPorts (f : FocusRecipe) (c : FocusContext) (measured : Int) :
    foldSweep f c measured (onPorts x s) = onPorts x (foldSweep f c measured s) := by
  have drifted := drift_onPorts x { s with fe := foldMeasurement f c.zone measured ((c.prediction.map Prod.fst).getD 0) s.fe }
  simp only [foldSweep]
  rw [onPorts_fe]
  split_ifs
  · exact drifted
  · rfl

theorem actOnOk_onPorts (w : WaferRecipe) (c : FocusContext) (tag : Nat) (kind : RevisitKind) (raw : Int) :
    actOnOk w c tag kind raw (onPorts x s) = onPorts x (actOnOk w c tag kind raw s) := by
  have folded := foldSweep_onPorts x (markClamped tag (clampFocus w.focus raw != raw) s) w.focus c (clampFocus w.focus raw)
  have marked : markClamped tag (clampFocus w.focus raw != raw) (onPorts x s) =
      onPorts x (markClamped tag (clampFocus w.focus raw != raw) s) := rfl
  simp only [actOnOk, marked, folded]
  split_ifs
  · rfl
  · exact becomeFocused_onPorts ..

theorem sweepAgain_onPorts (w : WaferRecipe) (centre : Int) (c : FocusContext) (tag : Nat) (e : RevisitEntry) :
    sweepAgain w centre c tag e (onPorts x s) = onPorts x (sweepAgain w centre c tag e s) := by
  simp only [sweepAgain, fallBack]
  split_ifs
  · rfl
  · rfl
  · exact becomeFocused_onPorts ..

theorem actOnSweep_onPorts (w : WaferRecipe) (c : FocusContext) (p : SweepPlan) (tag : Nat) (e : RevisitEntry) (scores : List Nat) :
    actOnSweep w c p tag e scores (onPorts x s) = onPorts x (actOnSweep w c p tag e scores s) := by
  simp only [actOnSweep]
  cases evaluateSweep w.focus p scores with
  | flat => exact sweepAgain_onPorts ..
  | edge k =>
    simp only [actOnEdge]
    split_ifs
    · exact becomeFocused_onPorts ..
    · exact sweepAgain_onPorts ..
  | ok raw => exact actOnOk_onPorts ..

theorem completionNotice_onPorts (k : HeldCommand) : completionNotice k (onPorts x s) = onPorts x (completionNotice k s) := by
  unfold completionNotice
  split
  · exact chamberEntry_onPorts ..
  · exact exitDone_onPorts ..
  · rfl

theorem completeDone_onPorts (k : HeldCommand) : completeDone k (onPorts x s) = onPorts x (completeDone k s) := by
  have noticed := completionNotice_onPorts x { s with wt := { applyMove k s.wt with channel := .idle } } k
  rw [completeDone, completeDone, ← restTest_onPorts, ← noticed]
  rfl

theorem completeFault_onPorts (k : HeldCommand) (fault : Nat) : completeFault k fault (onPorts x s) = onPorts x (completeFault k fault s) := by
  rw [completeFault, completeFault, ← restTest_onPorts]
  rfl

theorem relocateNotice_onPorts (c : CarrierSlot) (v : Verb) (p : Place) (l : Location) :
    relocateNotice c v p l (onPorts x s) = onPorts x (relocateNotice c v p l s) := by
  unfold relocateNotice
  rw [onPorts_rs]
  split
  · split_ifs
    · exact chamberEntry_onPorts ..
    · rfl
  · split_ifs
    · rfl
    · exact exitDone_onPorts ..
    · rfl
  · rfl

end

/-! ## Owners -/

theorem decideSetup_portFree : PortFree decideSetup := by
  intro x w s
  unfold decideSetup
  rw [onPorts_pi, onPorts_wt]
  split_ifs
  · rfl
  · cases setupOf w <;> rfl

theorem decideClear_portFree : PortFree decideClear := fun _ _ _ => rfl

theorem decideLotClose_portFree : PortFree decideLotClose := by
  intro x w s
  unfold decideLotClose
  rw [onPorts_wt]
  split_ifs <;> rfl

theorem decideIdOverride_portFree : PortFree decideIdOverride := by
  intro x w s
  unfold decideIdOverride
  rw [onPorts_wt]
  split_ifs
  · rfl
  · cases slotOfNumber (overrideSlot w) with
    | none => rfl
    | some c =>
      simp only
      split_ifs <;> rfl

theorem decideRelocate_portFree : PortFree decideRelocate := by
  intro x w s
  unfold decideRelocate
  rw [onPorts_wt]
  cases s.wt.channel with
  | halted c v p =>
    simp only
    split_ifs
    · rfl
    · cases relocateLocation w with
      | none => rfl
      | some l =>
        have noticed := relocateNotice_onPorts x { s with wt := relocateWafer c l s.wt } c v p l
        simp only
        split_ifs
        · rw [take, take, ← restTest_onPorts, ← noticed]
          rfl
        · rfl
  | idle => rfl
  | outstanding k => rfl

theorem decideAlignment_portFree : PortFree decideAlignment := by
  intro x w s
  unfold decideAlignment
  rw [onPorts_rs]
  split_ifs <;> rfl

theorem decideEndWafer_portFree : PortFree decideEndWafer := by
  intro x w s
  unfold decideEndWafer
  rw [onPorts_rs]
  split_ifs <;> rfl

theorem decideUrgentJoin_onPorts (x : Traffic) (i : Nat) (found : Option Nat) (s : State) :
    decideUrgentJoin i found (onPorts x s) = ((decideUrgentJoin i found s).1, onPorts x (decideUrgentJoin i found s).2) := by
  unfold decideUrgentJoin
  rw [onPorts_rs]
  split_ifs
  · rfl
  · cases found with
    | some tag => rfl
    | none => cases openTag s.rs <;> rfl

theorem decideUrgent_portFree : PortFree decideUrgent := by
  intro x w s
  have joins := decideUrgentJoin_onPorts x (urgentIndex w)
  have inside : inWafer (onPorts x s) (urgentIndex w) = inWafer s (urgentIndex w) := rfl
  simp only [decideUrgent, inside]
  rw [onPorts_rs]
  split_ifs
  · rfl
  · rfl
  · cases entryFor s.rs (urgentIndex w) with
    | none => exact joins none s
    | some p =>
      simp only
      split_ifs
      · exact joins _ s
      · rfl
      · rfl
      · rfl

theorem decideTableLoad_portFree : PortFree decideTableLoad := by
  intro x w s
  have busy : tableBusy (onPorts x s) = tableBusy s := rfl
  simp only [decideTableLoad, busy]
  split_ifs <;> rfl

theorem decideAckFlags_portFree : PortFree decideAckFlags := by
  intro x w s
  simp only [decideAckFlags]
  split_ifs <;> rfl

theorem decideLotHeader_portFree : PortFree decideLotHeader := by
  intro x w s
  unfold decideLotHeader
  rw [onPorts_wt]
  split_ifs
  · rfl
  · cases headerIdCheck w <;> rfl

theorem decideWaferEntry_portFree (c : CarrierSlot) : PortFree (decideWaferEntry c) := by
  intro x w s
  unfold decideWaferEntry
  rw [onPorts_wt]
  split_ifs <;> rfl

theorem decideFocusRecipe_portFree : PortFree decideFocusRecipe := by
  intro x w s
  unfold decideFocusRecipe
  rw [onPorts_pi]
  cases focusRecipeOf w with
  | none => rfl
  | some r =>
    simp only
    split_ifs <;> rfl

theorem decideSamplingRecipe_portFree : PortFree decideSamplingRecipe := by
  intro x w s
  simp only [decideSamplingRecipe]
  cases samplingRecipeOf w <;> rfl

theorem decideGeometryRecipe_portFree : PortFree decideGeometryRecipe := by
  intro x w s
  unfold decideGeometryRecipe
  rw [onPorts_pi]
  cases geometryRecipeOf w with
  | none => rfl
  | some r =>
    simp only
    split_ifs <;> rfl

theorem decideCompletion_portFree : PortFree decideCompletion := by
  intro x w s
  unfold decideCompletion
  rw [onPorts_wt]
  cases s.wt.channel with
  | outstanding k =>
    simp only
    split_ifs
    · rfl
    · cases completionDone w with
      | none => rfl
      | some done =>
        cases done with
        | true => exact congrArg take (completeDone_onPorts x s k)
        | false => exact congrArg take (completeFault_onPorts x s k _)
  | idle => rfl
  | halted c v p => rfl

theorem decideSlotMap_portFree : PortFree decideSlotMap := by
  intro x w s
  unfold decideSlotMap
  rw [onPorts_wt]
  split_ifs <;> rfl

theorem decideIdRead_portFree : PortFree decideIdRead := by
  intro x w s
  unfold decideIdRead
  rw [onPorts_wt]
  cases s.wt.aligner with
  | none => rfl
  | some c =>
    cases readStatus w with
    | none => rfl
    | some ok => exact congrArg take (applyIdRead_onPorts ..)

theorem decideArrival_portFree : PortFree decideArrival := by
  intro x w s
  unfold decideArrival
  rw [onPorts_rs]
  cases siteEntry s.rs with
  | none => rfl
  | some p =>
    simp only
    split_ifs
    · cases arrivalSettled w <;> rfl
    · rfl

theorem decideSweep_portFree : PortFree decideSweep := by
  intro x w s
  unfold decideSweep
  rw [onPorts_rs, onPorts_fe]
  cases siteEntry s.rs with
  | none => rfl
  | some p =>
    cases s.fe.context with
    | none => rfl
    | some c =>
      cases s.rs.session.recipe with
      | none => rfl
      | some recipe =>
        simp only
        split_ifs
        · cases c.plan with
          | none => rfl
          | some plan =>
            simp only
            split_ifs
            · exact congrArg take (actOnSweep_onPorts ..)
            · rfl
        · rfl

theorem decideCapability_portFree : PortFree decideCapability := fun _ _ _ => rfl

theorem takeResult_onPorts (x : Traffic) (tag : Nat) (kind : RevisitKind) (o : ResultOutcome) (c : Nat) (s : State) :
    takeResult tag kind o c (onPorts x s) = onPorts x (takeResult tag kind o c s) := by
  cases o with
  | imageFault => exact failEntry_onPorts ..
  | classified => rfl
  | notFound => rfl

theorem decideResult_portFree : PortFree decideResult := by
  intro x w s
  unfold decideResult
  rw [onPorts_rs]
  cases siteEntry s.rs with
  | none => rfl
  | some p =>
    simp only
    split_ifs
    · cases resultOutcome w with
      | none => rfl
      | some o =>
        simp only
        split_ifs
        · rfl
        · exact congrArg take (takeResult_onPorts ..)
    · rfl

theorem decideStreamLine_portFree : PortFree decideStreamLine := by
  intro x w s
  have busy : tableBusy (onPorts x s) = tableBusy s := rfl
  simp only [decideStreamLine, busy]
  rw [onPorts_rs]
  split_ifs <;> rfl

theorem decideDefectEntry_portFree (i : Fin 4096) : PortFree (decideDefectEntry i) := by
  intro x w s
  unfold decideDefectEntry
  rw [onPorts_wt]
  split_ifs <;> rfl

/-- Every owner of a staged slot's records is free of the ports. -/
theorem ownersOf_portFree {slot : StagedSlot} {k : RecordKind} {own : Owner} (owner : ownersOf slot k = some own) : PortFree own := by
  have only {j : RecordKind} {o : Owner} (free : PortFree o) (h : onlyKind j o k = some own) : PortFree own := by
    unfold onlyKind withOwner at h
    split_ifs at h
    cases h
    exact free
  cases slot with
  | setup => exact only decideSetup_portFree owner
  | control =>
    cases k <;> cases owner
    · exact decideClear_portFree
    · exact decideLotClose_portFree
    · exact decideIdOverride_portFree
    · exact decideRelocate_portFree
    · exact decideAlignment_portFree
    · exact decideEndWafer_portFree
    · exact decideUrgent_portFree
    · exact decideTableLoad_portFree
    · exact decideAckFlags_portFree
  | lotHeader => exact only decideLotHeader_portFree owner
  | waferEntry c => exact only (decideWaferEntry_portFree c) owner
  | focusRecipe => exact only decideFocusRecipe_portFree owner
  | samplingRecipe => exact only decideSamplingRecipe_portFree owner
  | geometryRecipe => exact only decideGeometryRecipe_portFree owner
  | mailbox => cases owner
  | completion => exact only decideCompletion_portFree owner
  | slotMap => exact only decideSlotMap_portFree owner
  | idRead => exact only decideIdRead_portFree owner
  | arrival => exact only decideArrival_portFree owner
  | sweep => exact only decideSweep_portFree owner
  | capability => exact only decideCapability_portFree owner
  | result => exact only decideResult_portFree owner

theorem bulkOwner_portFree (slot : BulkSlot) : PortFree (bulkOwner slot) := by
  cases slot with
  | tableStream => exact decideStreamLine_portFree
  | defect i => exact decideDefectEntry_portFree i

/-! ## Judges -/

theorem settle_onPorts {x : Traffic} (checks : List Check) (wafer : Option CarrierSlot) {pass pass' : CarrierSlot → State}
    (same : ∀ c, pass' c = onPorts x (pass c)) : settle checks wafer pass' = (settle checks wafer pass).map (onPorts x) := by
  unfold settle
  cases firstFailure checks with
  | some reason => rfl
  | none =>
    cases wafer with
    | none => rfl
    | some c => exact congrArg Except.ok (same c)

theorem judgeByCode_portFree (v : Verb) (p : Place) : JudgePortFree (judgeByCode v p) := by
  intro x w tag s
  cases v <;> cases p
  case pick.carrier =>
    simp only [judgeByCode, judgePickCarrier]
    cases slotOfNumber (commandCarrier w).toNat with
    | none => rfl
    | some c => exact settle_onPorts (pickCarrierChecks c s.wt) (some c) fun _ => rfl
  case place.carrier =>
    simp only [judgeByCode, judgePlaceCarrier]
    cases slotOfNumber (commandCarrier w).toNat with
    | none => rfl
    | some c => exact settle_onPorts (placeCarrierChecks c s.wt) s.wt.robot fun _ => rfl
  case pick.aligner => exact settle_onPorts (pickAlignerChecks s.wt) s.wt.aligner fun _ => rfl
  case pick.stage => exact settle_onPorts (pickStageChecks s.wt s.rs) s.wt.chamber fun _ => rfl
  case place.aligner => exact settle_onPorts (placeAlignerChecks s.wt) s.wt.robot fun _ => rfl
  case place.stage => exact settle_onPorts (placeStageChecks s.pi s.wt) s.wt.robot fun _ => rfl

theorem judgeCommand_portFree : JudgePortFree judgeCommand := by
  intro x w tag s
  unfold judgeCommand
  cases commandVerb w with
  | none => rfl
  | some v =>
    cases commandPlace w with
    | none => rfl
    | some p => exact judgeByCode_portFree v p x w tag s

end Sys2Proof.Machine
end

section
/-! PROOFS. A burst over several slots: what one slot takes of two bursts with the same share, the order of the slots, and a burst cut at
a slot's edge (R5, R8, R12; logs 4, 5). -/

namespace Sys2Proof.Machine

/-! ## The share of one slot under two bursts -/

/-- The ports of two runs: left as they were, or both those of the same command rewritten, which `mailbox` allows (R10). -/
def PortsAlike (k : BitVec 3) (b b' : WriteBurst) (mailbox : Prop) (x x' y y' : Traffic) : Prop :=
  (y = x ∧ y' = x') ∨ (mailbox ∧ ∃ tag reason,
    y = writeTraffic b (rewriteBeats k tag reason b) ∧ y' = writeTraffic b' (rewriteBeats k tag reason b'))

/-- Two runs leave the same state but for the ports, and alike ports. -/
def RunsAlike (k : BitVec 3) (b b' : WriteBurst) (mailbox : Prop) (x x' : Traffic) (t t' : State) : Prop :=
  t' = onPorts t'.traffic t ∧ PortsAlike k b b' mailbox x x' t.traffic t'.traffic

theorem recordPost_onPorts (x : Traffic) (n : Nat) (tag : BitVec 8) (o : PostOutcome) (s : State) :
    recordPost n tag o (onPorts x s) = onPorts x (recordPost n tag o s) := rfl

theorem judgePost_onPorts (x : Traffic) (slot : StagedSlot) (ok : Bool) (u : StagingBuffer) (s : State) :
    judgePost (ownersOf slot) ok u (onPorts x s) = ((judgePost (ownersOf slot) ok u s).1, onPorts x (judgePost (ownersOf slot) ok u s).2) := by
  unfold judgePost
  split_ifs
  · cases postKind u.words[7] with
    | none => rfl
    | some k =>
      cases owner : ownersOf slot k with
      | none => simp only [owner]; rfl
      | some own =>
        simp only [owner]
        split_ifs
        · exact ownersOf_portFree owner x u.words s
        · rfl
  · rfl

theorem postShare_onPorts (x : Traffic) (slot : StagedSlot) (ok : Bool) (share : List PlacedBeat) (s : State) :
    postShare (ownersOf slot) slot ok share (onPorts x s) = onPorts x (postShare (ownersOf slot) slot ok share s) := by
  have judged := judgePost_onPorts x slot ok (mergeShare ok share (bufferOf s.pi slot))
    { s with pi := setBuffer slot (clearMarks (mergeShare ok share (bufferOf s.pi slot))) s.pi }
  simp only [postShare, ← recordPost_onPorts]
  exact congrArg (fun d : Decision => recordPost (stagedNumber slot) (postTag (tagWord ok share (bufferOf s.pi slot))) d.1 d.2) judged

theorem stagedStep_onPorts (x : Traffic) (role : Role) {slot : StagedSlot} {b b' : WriteBurst} {s : State}
    (shares : shareOf s.pi.window (stagedNumber slot) b' = shareOf s.pi.window (stagedNumber slot) b) :
    stagedStep (ownersOf slot) role slot b' (onPorts x s) = onPorts x (stagedStep (ownersOf slot) role slot b s) := by
  simp only [stagedStep]
  rw [onPorts_pi, shares]
  split_ifs
  · exact postShare_onPorts ..
  · rfl
  · rfl

theorem judgeBulk_onPorts (x : Traffic) (slot : BulkSlot) (role : Role) (h : BurstHeader) (share : List PlacedBeat) (s : State) :
    judgeBulk (bulkOwner slot) role h share (onPorts x s) =
      ((judgeBulk (bulkOwner slot) role h share s).1, onPorts x (judgeBulk (bulkOwner slot) role h share s).2) := by
  unfold judgeBulk
  split_ifs
  · exact bulkOwner_portFree slot x _ s
  · rfl
  · rfl

theorem bulkStep_onPorts (x : Traffic) (role : Role) {slot : BulkSlot} {b b' : WriteBurst} {s : State}
    (shares : shareOf s.pi.window (bulkNumber slot) b' = shareOf s.pi.window (bulkNumber slot) b)
    (bytes : beatBytes b'.header = beatBytes b.header) :
    bulkStep (bulkOwner slot) role slot b' (onPorts x s) = onPorts x (bulkStep (bulkOwner slot) role slot b s) := by
  have judged := judgeBulk_onPorts x slot role b.header (shareOf s.pi.window (bulkNumber slot) b) s
  have sizes (t : State) : judgeBulk (bulkOwner slot) role b'.header (shareOf s.pi.window (bulkNumber slot) b) t =
      judgeBulk (bulkOwner slot) role b.header (shareOf s.pi.window (bulkNumber slot) b) t := by
    have full (share : List PlacedBeat) : fullLine b'.header share = fullLine b.header share := by rw [fullLine, fullLine, bytes]
    rw [judgeBulk, judgeBulk, full]
  simp only [bulkStep]
  rw [onPorts_pi, shares]
  split_ifs
  · rw [sizes, judged]
    rfl
  · rfl

theorem judgeMailbox_alike (x : Traffic) (ok : Bool) (b b' : WriteBurst) (tag : BitVec 8) (u : StagingBuffer) (s : State)
    (mailbox : Prop) (here : mailbox) :
    RunsAlike s.pi.window b b' mailbox s.traffic x (judgeMailbox judgeCommand ok b tag u s)
      (judgeMailbox judgeCommand ok b' tag u (onPorts x s)) := by
  have rewritten (reason : RewriteReason) (o : PostOutcome) :
      RunsAlike s.pi.window b b' mailbox s.traffic x (rewriteCommand b tag reason o s) (rewriteCommand b' tag reason o (onPorts x s)) :=
    ⟨rfl, .inr ⟨here, tag, reason, rfl, rfl⟩⟩
  unfold judgeMailbox
  split_ifs
  · have judged := judgeCommand_portFree x u.words tag s
    have still := judgeCommand_portFree s.traffic u.words tag s
    cases verdict : judgeCommand u.words tag s with
    | error reason =>
      rw [verdict] at judged
      rw [judged]
      exact rewritten reason .wrongState
    | ok passed =>
      rw [show onPorts s.traffic s = s from rfl, verdict] at still
      rw [verdict] at judged
      rw [judged]
      have quiet := congrArg State.traffic (Except.ok.inj still)
      exact ⟨rfl, .inl ⟨quiet, rfl⟩⟩
  · exact rewritten ..
  · exact rewritten ..
  · exact rewritten ..

theorem mailboxStep_alike (x : Traffic) (role : Role) {b b' : WriteBurst} {s : State} {mailbox : Prop} (here : mailbox)
    (shares : shareOf s.pi.window (stagedNumber .mailbox) b' = shareOf s.pi.window (stagedNumber .mailbox) b) :
    RunsAlike s.pi.window b b' mailbox s.traffic x (mailboxStep judgeCommand role b s) (mailboxStep judgeCommand role b' (onPorts x s)) := by
  simp only [mailboxStep]
  rw [onPorts_pi, shares]
  split_ifs
  · exact judgeMailbox_alike x _ b b' _ _ { s with
      pi := setBuffer .mailbox (clearMarks (mergeShare (mayWrite s.pi.part .mailbox role)
        (shareOf s.pi.window (stagedNumber .mailbox) b) (bufferOf s.pi .mailbox))) s.pi } mailbox here
  · exact ⟨rfl, .inl ⟨rfl, rfl⟩⟩
  · exact ⟨rfl, .inl ⟨rfl, rfl⟩⟩

/-- An operation that commutes with the ports runs alike. -/
theorem RunsAlike.of_onPorts {k : BitVec 3} {b b' : WriteBurst} {mailbox : Prop} {s t t' : State} {x : Traffic}
    (same : t' = onPorts x t) (still : t = onPorts s.traffic t) : RunsAlike k b b' mailbox s.traffic x t t' := by
  have quiet := congrArg State.traffic still
  subst same
  exact ⟨rfl, .inl ⟨quiet, rfl⟩⟩

theorem bulkNumber_of_bulkOfNumber {n : Nat} {slot : BulkSlot} (h : bulkOfNumber n = some slot) : bulkNumber slot = n := by
  unfold bulkOfNumber at h
  split_ifs at h with stream defect
  · cases h
    exact stream.symm
  · cases h
    simp only [bulkNumber]
    omega

/-- The slot numbered `n` takes the same of two bursts that have the same share in it. -/
theorem treatSlot_alike (x : Traffic) (role : Role) {b b' : WriteBurst} {n : Nat} {s : State}
    (shares : shareOf s.pi.window n b' = shareOf s.pi.window n b) (bytes : beatBytes b'.header = beatBytes b.header) :
    RunsAlike s.pi.window b b' (n = 192) s.traffic x (treatSlot deciders role b n s) (treatSlot deciders role b' n (onPorts x s)) := by
  unfold treatSlot
  cases staged : stagedOfNumber n with
  | some slot =>
    have number := stagedNumber_of_stagedOfNumber staged
    subst number
    simp only
    split_ifs with mailbox
    · subst mailbox
      exact mailboxStep_alike x role rfl shares
    · exact .of_onPorts (stagedStep_onPorts x role shares) (stagedStep_onPorts s.traffic role rfl)
  | none =>
    cases bulk : bulkOfNumber n with
    | some slot =>
      have number : bulkNumber slot = n := bulkNumber_of_bulkOfNumber bulk
      subst number
      exact .of_onPorts (bulkStep_onPorts x role shares bytes) (bulkStep_onPorts s.traffic role rfl rfl)
    | none => exact ⟨rfl, .inl ⟨rfl, rfl⟩⟩

theorem PortsAlike.trans {k : BitVec 3} {b b' : WriteBurst} {p q r : Prop} {x x' y y' z z' : Traffic}
    (first : PortsAlike k b b' p x x' y y') (second : PortsAlike k b b' q y y' z z') (hp : p → r) (hq : q → r) :
    PortsAlike k b b' r x x' z z' := by
  obtain ⟨rfl, rfl⟩ | ⟨mailbox, written⟩ := second
  · exact first.imp_right fun ⟨mailbox, written⟩ => ⟨hp mailbox, written⟩
  · exact .inr ⟨hq mailbox, written⟩

/-- So do the slots of a list. -/
theorem treatSlots_alike (role : Role) {k : BitVec 3} {b b' : WriteBurst} (bytes : beatBytes b'.header = beatBytes b.header) (l : List Nat)
    (shares : ∀ n ∈ l, shareOf k n b' = shareOf k n b) (s : State) (window : s.pi.window = k) (x : Traffic) :
    RunsAlike k b b' (192 ∈ l) s.traffic x (l.foldl (fun t n => treatSlot deciders role b n t) s)
      (l.foldl (fun t n => treatSlot deciders role b' n t) (onPorts x s)) := by
  induction l generalizing s x with
  | nil => exact ⟨rfl, .inl ⟨rfl, rfl⟩⟩
  | cons n l ih =>
    subst window
    obtain ⟨same, ports⟩ := treatSlot_alike x role (shares n List.mem_cons_self) bytes
    have rest := ih (fun m mem => shares m (List.mem_cons_of_mem n mem)) (treatSlot deciders role b n s)
      (treatSlot_straps role b n s).1 (treatSlot deciders role b' n (onPorts x s)).traffic
    rw [← same] at rest
    obtain ⟨same', ports'⟩ := rest
    refine ⟨same', ports.trans ports' (fun here => ?_) fun here => List.mem_cons_of_mem n here⟩
    exact here ▸ List.mem_cons_self

/-! ## The order of the slots -/

/-- Filtering and mapping keep the order of the first of two kinds before the first of the other. -/
theorem idxOf_map_filter_lt {α : Type} (p : α → Bool) (g : α → Nat) {m n : Nat} {l : List α}
    (h : (l.findIdx fun a => p a && g a == m) < l.findIdx fun a => p a && g a == n) :
    ((l.filter p).map g).idxOf m < ((l.filter p).map g).idxOf n := by
  have differ : m ≠ n := fun same => by
    subst same
    exact lt_irrefl _ h
  induction l with
  | nil => exact absurd h (lt_irrefl _)
  | cons a l ih =>
    rw [List.findIdx_cons, List.findIdx_cons] at h
    by_cases passes : p a = true
    · simp only [passes, Bool.true_and] at h
      rw [List.filter_cons_of_pos passes, List.map_cons, List.idxOf_cons, List.idxOf_cons]
      by_cases first : g a = m
      · simp [first, beq_false_of_ne differ]
      · by_cases second : g a = n
        · simp [second] at h
        · simp only [beq_false_of_ne first, beq_false_of_ne second, cond_false] at h ⊢
          have later := ih (by omega)
          omega
    · rw [List.filter_cons_of_neg passes]
      simp only [passes, Bool.false_and, cond_false] at h
      exact ih (by omega)

/-- Erasing repeats keeps the order of two entries. -/
theorem idxOf_eraseDups_lt {m n : Nat} (l : List Nat) (h : l.idxOf m < l.idxOf n) : l.eraseDups.idxOf m < l.eraseDups.idxOf n := by
  have differ : m ≠ n := fun same => by
    subst same
    exact lt_irrefl _ h
  match l with
  | [] => exact absurd h (lt_irrefl _)
  | a :: l =>
    rw [List.eraseDups_cons, List.idxOf_cons, List.idxOf_cons]
    rw [List.idxOf_cons, List.idxOf_cons] at h
    by_cases first : a = m
    · simp [first, beq_false_of_ne differ]
    · by_cases second : a = n
      · simp [second] at h
      · simp only [beq_false_of_ne first, beq_false_of_ne second, cond_false] at h ⊢
        have skips {i : Nat} (other : a ≠ i) : (l.findIdx fun b => (!b == a) && id b == i) = l.idxOf i :=
          congrArg (l.findIdx ·) (funext fun b => by by_cases here : b = i <;> simp [here, other.symm])
        have kept := idxOf_map_filter_lt (fun b => !b == a) id (m := m) (n := n) (l := l) (by
          rw [skips first, skips second]
          omega)
        rw [List.map_id] at kept
        have later := idxOf_eraseDups_lt _ kept
        omega
termination_by l.length
decreasing_by
  rw [List.length_cons]
  exact Nat.lt_succ_of_le (List.length_filter_le _ _)

/-- The beat that gives a slot its place: in a slot the burst posts, one that writes word 7; in every other, any (R8, R12). -/
theorem placesSlot_iff (k : BitVec 3) (b : WriteBurst) (p : PlacedBeat) (n : Nat) :
    (placesSlot k b p && slotOfAddr k p.addr == n) = true ↔ regionBase k ≤ p.addr ∧ slotOfAddr k p.addr = n
      ∧ ((stagedOfNumber n).isSome ∧ isPost (shareOf k n b) = true → writesWord p 7 = true) := by
  rw [Bool.and_eq_true, beq_iff_eq, placesSlot, Bool.and_eq_true, decide_eq_true_iff, and_assoc, and_congr_right_iff]
  intro _
  rw [and_comm, and_congr_right_iff]
  intro here
  rw [here]
  cases writesWord p 7 <;> cases stagedOfNumber n <;> cases isPost (shareOf k n b) <;> simp

theorem slotOrder_idxOf_lt {k : BitVec 3} {b : WriteBurst} {m n : Nat}
    (h : ((placedBeats b).findIdx fun p => placesSlot k b p && slotOfAddr k p.addr == m) <
      (placedBeats b).findIdx fun p => placesSlot k b p && slotOfAddr k p.addr == n) :
    (slotOrder k b).idxOf m < (slotOrder k b).idxOf n :=
  idxOf_eraseDups_lt _ (idxOf_map_filter_lt (placesSlot k b) (fun p => slotOfAddr k p.addr) h)

/-! ## A burst cut at a slot's edge -/

theorem regionBase_edge (k : BitVec 3) : regionBase k % 4096 = 0 := by
  have := k.isLt
  simp only [regionBase, Config.windowStep]
  omega

/-- The region is made of whole pages of 4096 bytes. -/
theorem inRegion_page (k : BitVec 3) {a c : Nat} (page : a / 4096 = c / 4096) : inRegion k a = inRegion k c := by
  have base := regionBase_edge k
  have size : Config.regionBytes = 1048576 := rfl
  rw [Bool.eq_iff_iff]
  simp only [inRegion, size, Bool.and_eq_true, decide_eq_true_iff]
  omega

section
variable (h : BurstHeader) (x y : List WriteData) (answer : Response)

/-- The address where the burst is cut. -/
def cutAt : Nat := h.addr.toNat / beatBytes h * beatBytes h + x.length * beatBytes h

/-- The header of the part after the cut, with the role held. -/
def afterCut (role : Role) : BurstHeader := { h with addr := BitVec.ofNat 40 (cutAt h x), heldRole := some role }

variable {h x} (incr : h.kind = .incr) (begun : x ≠ []) (fits : cutAt h x < 2 ^ 40) (role : Role)

theorem beatBytes_pos (h : BurstHeader) : 0 < beatBytes h := Nat.two_pow_pos _

/-- The cut lies where a beat starts. -/
theorem cutAt_aligned (h : BurstHeader) (x : List WriteData) : cutAt h x / beatBytes h * beatBytes h = cutAt h x := by
  rw [cutAt, ← Nat.add_mul, Nat.mul_div_cancel _ (beatBytes_pos h)]

include fits in
theorem afterCut_addr : (afterCut h x role).addr.toNat = cutAt h x := by
  rw [afterCut, BitVec.toNat_ofNat, Nat.mod_eq_of_lt fits]

include incr begun fits in
/-- The beats of the whole burst are those of its two parts. -/
theorem placedBeats_cut : placedBeats ⟨h, x ++ y, answer⟩ =
    placedBeats ⟨h, x, answer⟩ ++ placedBeats ⟨afterCut h x role, y, answer⟩ := by
  have start := afterCut_addr fits role
  have whole := cutAt_aligned h x
  have later (i : Nat) : beatAddr h (x ++ y).length (i + x.length) = beatAddr (afterCut h x role) y.length i := by
    have past : ¬ i + x.length = 0 := fun none => begun (List.length_eq_zero_iff.1 (by omega))
    have kind : (afterCut h x role).kind = .incr := incr
    have bytes : beatBytes (afterCut h x role) = beatBytes h := rfl
    simp only [beatAddr, incr, kind, start, bytes, whole, if_neg past]
    split_ifs with first
    · rw [first, cutAt, Nat.zero_add]
    · rw [cutAt, Nat.add_mul]
      omega
  have early (i : Nat) : beatAddr h (x ++ y).length i = beatAddr h x.length i := by simp only [beatAddr, incr]
  simp only [placedBeats, List.mapIdx_append]
  refine congrArg₂ (· ++ ·) ?_ ?_
  · simp only [early]
  · simp only [later]
    rfl

theorem mem_placedBeats {b : WriteBurst} {p : PlacedBeat} (mem : p ∈ placedBeats b) :
    ∃ i < b.beats.length, p.addr = beatAddr b.header b.beats.length i := by
  obtain ⟨i, inside, rfl⟩ := List.mem_mapIdx.1 mem
  exact ⟨i, inside, rfl⟩

include incr in
theorem before_cut {p : PlacedBeat} (mem : p ∈ placedBeats ⟨h, x, answer⟩) : p.addr < cutAt h x := by
  obtain ⟨i, inside, place⟩ := mem_placedBeats mem
  have step : (i + 1) * beatBytes h ≤ x.length * beatBytes h := Nat.mul_le_mul_right _ inside
  have group := Nat.div_add_mod' h.addr.toNat (beatBytes h)
  have low := Nat.mod_lt h.addr.toNat (beatBytes_pos h)
  rw [Nat.add_mul, Nat.one_mul] at step
  rw [place, cutAt]
  simp only [beatAddr, incr]
  have pos := beatBytes_pos h
  split_ifs <;> omega

include incr fits in
theorem after_cut {p : PlacedBeat} (mem : p ∈ placedBeats ⟨afterCut h x role, y, answer⟩) : cutAt h x ≤ p.addr := by
  obtain ⟨i, -, place⟩ := mem_placedBeats mem
  have kind : (afterCut h x role).kind = .incr := incr
  have start := afterCut_addr fits role
  have bytes : beatBytes (afterCut h x role) = beatBytes h := rfl
  have whole := cutAt_aligned h x
  rw [place]
  simp only [beatAddr, kind, start, bytes, whole]
  split_ifs <;> omega

end

/-- A burst and its two parts, cut at an address that is a slot's edge. -/
structure CutBurst (b b₁ b₂ : WriteBurst) (cut : Nat) : Prop where
  beats : b.beats = b₁.beats ++ b₂.beats
  placed : placedBeats b = placedBeats b₁ ++ placedBeats b₂
  before : ∀ p ∈ placedBeats b₁, p.addr < cut
  after : ∀ p ∈ placedBeats b₂, cut ≤ p.addr
  edge : cut % 64 = 0
  bytes₁ : beatBytes b₁.header = beatBytes b.header
  bytes₂ : beatBytes b₂.header = beatBytes b.header

theorem slot_of_mem_slotOrder {k : BitVec 3} {b : WriteBurst} {n : Nat} (h : n ∈ slotOrder k b) :
    ∃ p ∈ placedBeats b, regionBase k ≤ p.addr ∧ slotOfAddr k p.addr = n := by
  simp only [slotOrder, List.mem_eraseDups, List.mem_map, List.mem_filter, placesSlot, Bool.and_eq_true, decide_eq_true_iff] at h
  obtain ⟨p, ⟨mem, low, -⟩, slot⟩ := h
  exact ⟨p, mem, low, slot⟩

theorem mem_shareOf {k : BitVec 3} {b : WriteBurst} {n : Nat} {p : PlacedBeat} :
    p ∈ shareOf k n b ↔ p ∈ placedBeats b ∧ regionBase k ≤ p.addr ∧ slotOfAddr k p.addr = n := by
  simp [shareOf]

namespace CutBurst
variable {b b₁ b₂ : WriteBurst} {cut : Nat} (c : CutBurst b b₁ b₂ cut) (k : BitVec 3)
include c

/-- No slot has beats of both parts. -/
theorem slot_lt {p q : PlacedBeat} (hp : p ∈ placedBeats b₁) (hq : q ∈ placedBeats b₂) (low : regionBase k ≤ p.addr) :
    slotOfAddr k p.addr < slotOfAddr k q.addr := by
  have base := regionBase_edge k
  have before := c.before p hp
  have after := c.after q hq
  have edge := c.edge
  simp only [slotOfAddr]
  omega

theorem shareOf_append (n : Nat) : shareOf k n b = shareOf k n b₁ ++ shareOf k n b₂ := by
  rw [shareOf, c.placed, List.filter_append]
  rfl

theorem shareOf_before {p : PlacedBeat} (hp : p ∈ placedBeats b₁) (low : regionBase k ≤ p.addr) :
    shareOf k (slotOfAddr k p.addr) b₁ = shareOf k (slotOfAddr k p.addr) b := by
  have none : shareOf k (slotOfAddr k p.addr) b₂ = [] := List.eq_nil_iff_forall_not_mem.2 fun q hq => by
    obtain ⟨mem, -, slot⟩ := mem_shareOf.1 hq
    have := c.slot_lt k hp mem low
    omega
  rw [c.shareOf_append, none, List.append_nil]

theorem shareOf_after {q : PlacedBeat} (hq : q ∈ placedBeats b₂) :
    shareOf k (slotOfAddr k q.addr) b₂ = shareOf k (slotOfAddr k q.addr) b := by
  have none : shareOf k (slotOfAddr k q.addr) b₁ = [] := List.eq_nil_iff_forall_not_mem.2 fun p hp => by
    obtain ⟨mem, low, slot⟩ := mem_shareOf.1 hp
    have := c.slot_lt k mem hq low
    omega
  rw [c.shareOf_append, none, List.nil_append]

theorem shares₁ {n : Nat} (mem : n ∈ slotOrder k b₁) : shareOf k n b₁ = shareOf k n b := by
  obtain ⟨p, hp, low, rfl⟩ := slot_of_mem_slotOrder mem
  exact c.shareOf_before k hp low

theorem shares₂ {n : Nat} (mem : n ∈ slotOrder k b₂) : shareOf k n b₂ = shareOf k n b := by
  obtain ⟨q, hq, -, rfl⟩ := slot_of_mem_slotOrder mem
  exact c.shareOf_after k hq

/-- The slots of the first part come first. -/
theorem slotOrder_append : slotOrder k b = slotOrder k b₁ ++ slotOrder k b₂ := by
  have places₁ : ∀ p ∈ placedBeats b₁, placesSlot k b p = placesSlot k b₁ p := fun p hp => by
    by_cases low : regionBase k ≤ p.addr
    · simp only [placesSlot, c.shareOf_before k hp low]
    · simp [placesSlot, low]
  have places₂ : ∀ q ∈ placedBeats b₂, placesSlot k b q = placesSlot k b₂ q := fun q hq => by
    simp only [placesSlot, c.shareOf_after k hq]
  have apart : (((placedBeats b₂).filter (placesSlot k b₂)).map fun p => slotOfAddr k p.addr).removeAll
      (((placedBeats b₁).filter (placesSlot k b₁)).map fun p => slotOfAddr k p.addr) =
        ((placedBeats b₂).filter (placesSlot k b₂)).map fun p => slotOfAddr k p.addr := by
    refine List.filter_eq_self.2 fun n mem => ?_
    obtain ⟨q, hq, rfl⟩ := List.mem_map.1 mem
    have other : slotOfAddr k q.addr ∉ ((placedBeats b₁).filter (placesSlot k b₁)).map fun p => slotOfAddr k p.addr := fun found => by
      obtain ⟨p, hp, slot⟩ := List.mem_map.1 found
      obtain ⟨mem, places⟩ := List.mem_filter.1 hp
      simp only [placesSlot, Bool.and_eq_true, decide_eq_true_iff] at places
      have := c.slot_lt k mem (List.mem_filter.1 hq).1 places.1
      omega
    simpa using other
  rw [slotOrder, c.placed, List.filter_append, List.map_append, List.filter_congr places₁, List.filter_congr places₂,
    List.eraseDups_append, apart]
  rfl

theorem rewriteBeats_append (tag : BitVec 8) (reason : RewriteReason) :
    rewriteBeats k tag reason b = rewriteBeats k tag reason b₁ ++ rewriteBeats k tag reason b₂ := by
  rw [rewriteBeats, c.beats, c.placed, List.zipWith_append (by rw [placedBeats_length])]
  rfl

end CutBurst

/-- A burst without a beat in the mailbox goes as written (R10). -/
theorem rewriteBeats_outside {k : BitVec 3} {b : WriteBurst}
    (outside : ∀ p ∈ placedBeats b, ¬ (regionBase k ≤ p.addr ∧ slotOfAddr k p.addr = 192))
    (tag : BitVec 8) (reason : RewriteReason) : rewriteBeats k tag reason b = b.beats := by
  have length := placedBeats_length b
  refine List.ext_getElem (by simp [rewriteBeats, length]) fun i h₁ h₂ => ?_
  have inside : i < (placedBeats b).length := length ▸ h₂
  have kept : ¬ heldBeat k (placedBeats b)[i] = true := fun held => by
    obtain ⟨low, slot, -⟩ := (heldBeat_iff k _).1 held
    exact outside _ (List.getElem_mem inside) ⟨low, slot⟩
  simp only [rewriteBeats, List.getElem_zipWith, if_neg kept]

namespace CutBurst
variable {b b₁ b₂ : WriteBurst} {cut : Nat} (c : CutBurst b b₁ b₂ cut) (k : BitVec 3)
include c

theorem rewriteBeats_first (mem : 192 ∈ slotOrder k b₁) (tag : BitVec 8) (reason : RewriteReason) :
    rewriteBeats k tag reason b = rewriteBeats k tag reason b₁ ++ b₂.beats := by
  obtain ⟨p, hp, low, slot⟩ := slot_of_mem_slotOrder mem
  rw [c.rewriteBeats_append, rewriteBeats_outside (b := b₂) fun q hq here => ?_]
  have := c.slot_lt k hp hq low
  omega

theorem rewriteBeats_second (mem : 192 ∈ slotOrder k b₂) (tag : BitVec 8) (reason : RewriteReason) :
    rewriteBeats k tag reason b = b₁.beats ++ rewriteBeats k tag reason b₂ := by
  obtain ⟨q, hq, -, slot⟩ := slot_of_mem_slotOrder mem
  rw [c.rewriteBeats_append, rewriteBeats_outside (b := b₁) fun p hp here => ?_]
  have := c.slot_lt k hp hq here.1
  omega

/-- The slots of the whole burst do what those of its parts do in turn. -/
theorem treatSlots (role : Role) (s : State) (window : s.pi.window = k) {t u : State}
    (first : t = (slotOrder k b₁).foldl (fun t n => treatSlot deciders role b₁ n t) (onPorts (passedTraffic b₁) s))
    (second : u = (slotOrder k b₂).foldl (fun t n => treatSlot deciders role b₂ n t) (onPorts (passedTraffic b₂) t)) :
    ∃ sent sent', t.traffic = writeTraffic b₁ sent ∧ u.traffic = writeTraffic b₂ sent'
      ∧ (slotOrder k b).foldl (fun t n => treatSlot deciders role b n t) (onPorts (passedTraffic b) s) =
        onPorts (writeTraffic b (sent ++ sent')) u := by
  obtain ⟨same, ports⟩ := treatSlots_alike role c.bytes₁ (slotOrder k b₁) (fun n mem => c.shares₁ k mem) (onPorts (passedTraffic b) s)
    window (passedTraffic b₁)
  have straps := treatSlots_straps role b (slotOrder k b₁) (onPorts (passedTraffic b) s)
  obtain ⟨same', ports'⟩ := treatSlots_alike role c.bytes₂ (slotOrder k b₂) (fun n mem => c.shares₂ k mem) _
    (straps.1.trans window) (passedTraffic b₂)
  rw [c.slotOrder_append, List.foldl_append]
  rw [show onPorts (passedTraffic b₁) (onPorts (passedTraffic b) s) = onPorts (passedTraffic b₁) s from rfl, ← first] at same ports
  have resumed : onPorts (passedTraffic b₂) t = onPorts (passedTraffic b₂)
      ((slotOrder k b₁).foldl (fun t n => treatSlot deciders role b n t) (onPorts (passedTraffic b) s)) := by
    rw [same]
    rfl
  rw [← resumed, ← second] at same' ports'
  generalize (slotOrder k b₁).foldl (fun t n => treatSlot deciders role b n t) (onPorts (passedTraffic b) s) = f₁ at *
  generalize (slotOrder k b₂).foldl (fun t n => treatSlot deciders role b n t) f₁ = f₂ at *
  have ends {sent sent' : List WriteData} (written : f₂.traffic = writeTraffic b (sent ++ sent')) :
      f₂ = onPorts (writeTraffic b (sent ++ sent')) u := by
    rw [same', ← written]
    rfl
  obtain ⟨stood, stood₁⟩ | ⟨mailbox, tag, reason, written, written₁⟩ := ports
  · obtain ⟨still, still₂⟩ | ⟨mailbox', tag, reason, rewritten, rewritten₂⟩ := ports'
    · exact ⟨b₁.beats, b₂.beats, stood₁, still₂, ends (by rw [still, stood, ← c.beats]; rfl)⟩
    · exact ⟨b₁.beats, _, stood₁, rewritten₂, ends (by rw [rewritten, c.rewriteBeats_second k mailbox'])⟩
  · obtain ⟨still, still₂⟩ | ⟨mailbox', -⟩ := ports'
    · exact ⟨_, b₂.beats, written₁, still₂, ends (by rw [still, written, c.rewriteBeats_first k mailbox])⟩
    · obtain ⟨p, hp, low, slot⟩ := slot_of_mem_slotOrder mailbox
      obtain ⟨q, hq, -, slot'⟩ := slot_of_mem_slotOrder mailbox'
      have := c.slot_lt k hp hq low
      omega

end CutBurst

theorem writeStep_decoded {b : WriteBurst} {s : State} (decoded : Decoded b.header s) :
    writeStep deciders b s = (slotOrder s.pi.window b).foldl (fun t n => treatSlot deciders (roleOf s.pi b.header) b n t)
      (onPorts (passedTraffic b) s) := by
  rw [writeStep, passesBy_of_decoded decoded]
  rfl

/-- The parts of an incrementing burst cut at a slot's edge. -/
theorem cutBurst_incr {h : BurstHeader} {x y : List WriteData} (answer : Response) (incr : h.kind = .incr) (begun : x ≠ [])
    (edge : cutAt h x % 64 = 0) (fits : cutAt h x < 2 ^ 40) (role : Role) :
    CutBurst ⟨h, x ++ y, answer⟩ ⟨h, x, answer⟩ ⟨afterCut h x role, y, answer⟩ (cutAt h x) where
  beats := rfl
  placed := placedBeats_cut y answer incr begun fits role
  before _ mem := before_cut answer incr mem
  after _ mem := after_cut y answer incr fits role mem
  edge := edge
  bytes₁ := rfl
  bytes₂ := rfl

/-- The cut lies in the page of the burst's start. -/
theorem cutAt_page {h : BurstHeader} {x y : List WriteData} (begun : x ≠ []) (more : y ≠ [])
    (page : h.addr.toNat / 4096 = (cutAt h x + y.length * beatBytes h - 1) / 4096) :
    cutAt h x < 2 ^ 40 ∧ cutAt h x / 4096 = h.addr.toNat / 4096 := by
  have start := h.addr.isLt
  have last : beatBytes h ≤ y.length * beatBytes h := Nat.le_mul_of_pos_left _ (List.length_pos_iff.2 more)
  have first : beatBytes h ≤ x.length * beatBytes h := Nat.le_mul_of_pos_left _ (List.length_pos_iff.2 begun)
  have group := Nat.div_add_mod' h.addr.toNat (beatBytes h)
  have within := Nat.mod_lt h.addr.toNat (beatBytes_pos h)
  have after : h.addr.toNat < cutAt h x := by
    rw [cutAt]
    omega
  omega

/-- A read row's name matters to the report window's beats alone. -/
theorem exec_reads (r : ReadBurst) (s : State) : exec (.targetRead r) s = .next (readStep serveTable 0 r.length r s) :=
  congrArg (fun v => Host.Outcome.next (readWhole v r s)) (servedWith_self .target)

/-- Settles O10: the name by the deciders' table, the order by the beats that place a slot, the cut burst by the runs of its parts. -/
theorem burstsTreatedSlotBySlot : Obligations.BurstsTreatedSlotBySlot := by
  refine ⟨fun c c' b s target target' => ?name, fun r s => ?reads, fun c b s target decoded => ?slots,
    ?order, ?cut⟩
  case name => rw [exec_write s target, exec_write s target']
  case reads =>
    rw [exec_reads]
    exact ⟨congrArg (fun v => Host.Outcome.next (readWhole v r s)) (servedWith_self .plan),
      congrArg (fun v => Host.Outcome.next (readWhole v r s)) (servedWith_self .event), rfl, rfl⟩
  case slots =>
    rw [exec_write s target, writeStep_decoded decoded]
    rfl
  case order =>
    intro k b m n _ _ posts place earlier
    refine slotOrder_idxOf_lt ?_
    have places (x : Nat) : (fun p => placesSlot k b p && slotOfAddr k p.addr == x) = fun p =>
        decide (regionBase k ≤ p.addr ∧ slotOfAddr k p.addr = x ∧ (posts x → writesWord p 7 = true)) := by
      funext p
      rw [Bool.eq_iff_iff, decide_eq_true_iff, placesSlot_iff]
    rw [places, places]
    exact earlier
  case cut =>
    intro c c' c'' h x y answer s t u sent sent' bytes edge rest target target' target'' incr begun more aligned page first
      downFirst second downSecond
    obtain ⟨fits, samePage⟩ := cutAt_page (h := h) (x := x) begun more page
    have cut := cutBurst_incr (h := h) (x := x) (y := y) answer incr begun aligned fits (roleOf s.pi h)
    rw [exec_write s target'] at first
    rw [exec_write t target''] at second
    rw [exec_write s target]
    have first := (Host.Outcome.next.inj first).symm
    have second := (Host.Outcome.next.inj second).symm
    have straps := writeStep_straps ⟨h, x, answer⟩ s
    rw [← first] at straps
    have start : rest.addr.toNat = cutAt h x := afterCut_addr fits (roleOf s.pi h)
    have region : Decoded rest t ↔ Decoded h s := by
      rw [Decoded, Decoded, straps.1, straps.2, start, inRegion_page s.pi.window samePage]
    by_cases decoded : Decoded h s
    · rw [writeStep_decoded (b := ⟨h, x, answer⟩) decoded] at first
      rw [writeStep_decoded (b := ⟨rest, y, answer⟩) (region.2 decoded), straps.1] at second
      rw [writeStep_decoded (b := ⟨h, x ++ y, answer⟩) decoded]
      obtain ⟨beats, beats', ports, ports', run⟩ := cut.treatSlots s.pi.window (roleOf s.pi h) s rfl first second
      rw [ports] at downFirst
      rw [ports'] at downSecond
      cases downFirst
      cases downSecond
      exact congrArg _ run
    · rw [writeStep_outside _ ⟨h, x, answer⟩ s decoded] at first
      rw [writeStep_outside _ ⟨rest, y, answer⟩ t (mt region.1 decoded)] at second
      rw [writeStep_outside _ ⟨h, x ++ y, answer⟩ s decoded]
      subst first
      subst second
      cases downFirst
      cases downSecond
      rfl

end Sys2Proof.Machine
end
